-- ==== Sys2Proof/Word.lean ====
section
/-! DEFINITION. The byte, the smallest unit of every store and format (00_scope.md R16: "A byte is 8 bits"). -/

namespace Sys2Proof

/-- A byte is 8 bits (00_scope.md R16). -/
abbrev Byte := BitVec 8

/-- The 128-bit key: 16 bytes in index order, no endianness (00_scope.md R10, 20_memory.md R74). -/
abbrev Key := Vector Byte 16

/-- The nonce: 8 bytes in index order, no endianness (00_scope.md R10, 20_memory.md R74). -/
abbrev Nonce := Vector Byte 8

/-- Signal strength. Width and unit are not given (10_state.md R44); a value is named by a number
(DESIGN CHOICE, log 7). -/
abbrev Rssi := Nat

end Sys2Proof
end

