-- ==== Sys2Proof/Syntax.lean ====
section
/-! DEFINITION. The operations of the block: one constructor of `Instr` per row of spec/opcode_table.json. -/

namespace Sys2Proof

/-- A telemetry record `R` (45_codec.md R273). -/
structure Record where
  type : BitVec 15
  deviceId : BitVec 64
  partId : BitVec 32
  seq : BitVec 32
  sensorId : BitVec 16
  fields : List Byte
deriving DecidableEq, Repr

/-- An on-air address: the 1-byte prefix and the 4-byte base (30_encoding.md R115). -/
structure Address where
  pfx : Byte
  base : Vector Byte 4
deriving DecidableEq, Repr, Inhabited

/-- What the radio sends and receives (30_encoding.md R115). -/
structure Frame where
  addr : Address
  body : List Byte
  crc : BitVec 24
deriving DecidableEq, Repr

/-- The payload operand of `CODEC_DECODE` (30_encoding.md R126). -/
inductive Payload
  /-- selector 0x00: the bytes of the current payload view of `BUF` -/
  | view
  /-- selector 0x01: inline bytes -/
  | inline (bytes : List Byte)
deriving DecidableEq, Repr

/-- The answer of the I2C target oracle (42_i2c.md R186). -/
inductive Answer
  | ack (rbytes : List Byte)
  | nack
  | busFault
  | stall
deriving DecidableEq, Repr

/-- `P` and its `args` in the pseudo-operation `BLOCKING(P, args)` (30_encoding.md R129). -/
inductive BlockingCall
  | timer (ticks : BitVec 32)
  | rtc (compare : BitVec 32)
  | i2c (addr : Byte) (wdata : List Byte) (rlen : Byte)
  | rng
deriving DecidableEq, Repr

/-- One constructor per row of spec/opcode_table.json: the 25 host operations (30_encoding.md R125), the
internal steps and the two internal parts (R127), the pseudo-operations (R129) and the wire formats
(R105, R106, R118). A value that the environment draws for an internal step (00_scope.md R17, `draw`) is an
operand of that step (log 8). -/
inductive Instr
  | timerStart (ticks : BitVec 32)
  | timerWait
  | rtcStart (compare : BitVec 32)
  | rtcWait
  | rngStart
  | rngWait
  | rngPoll
  | i2cEnable
  | i2cDisable
  | i2cStart (addr : Byte) (wdata : List Byte) (rlen : Byte)
  | i2cWait
  | radioInitTx
  | radioInitRx
  | radioStartTx (strings : List (List Byte))
  | radioStartRx
  | radioPayload
  | radioEventRead (k : Byte)
  | radioEventResetAll
  | radioDisable
  | radioTakeRx
  | codecEncodeEnc (r : Record)
  | codecEncodePlain (r : Record)
  | codecDecode (v : Payload)
  | hfclkStart
  | hfclkStop
  | timerTick
  | rtcTick
  /-- `v` is the draw of 43_rng.md R203. -/
  | rngProduce (v : Byte)
  /-- `a` is the oracle's answer of 42_i2c.md R186. -/
  | i2cComplete (a : Answer)
  | radioRamp
  | radioTxEnd
  /-- `f` is the frame from ENV and `rssi` the draw of 44_radio.md R236. -/
  | radioRxOffer (f : Frame) (rssi : Rssi)
  | radioRxStore
  /-- `tail` is the draw of the bytes past the body (44_radio.md R238). -/
  | radioRxEnd (tail : List Byte)
  | radioShortStart
  | radioShortDisable
  | irqTimer
  | irqRtc
  | irqRng
  | irqI2c
  | irqRadioTx
  | irqRadioRx
  /-- ENV delivers the `n`-th emitted frame with this body and crc (44_radio.md R230); `rssi` is the draw of R236. -/
  | envAirDeliver (n : Nat) (body : List Byte) (crc : BitVec 24) (rssi : Rssi)
  /-- ENV drops the `n`-th emitted frame (44_radio.md R230). -/
  | envAirDrop (n : Nat)
  | waitTxDone
  | blocking (c : BlockingCall)
  | drawNonce
  | sendEncrypted (r : Record)
  | waitRx
  /-- a payload whose tag has bit 15 clear: its type and the bytes after the tag (30_encoding.md R105) -/
  | pktPlain (t : BitVec 15) (content : List Byte)
  /-- a payload whose tag has bit 15 set: its type and the bytes after the tag (30_encoding.md R106) -/
  | pktEnc (t : BitVec 15) (content : List Byte)
  /-- the configuration word: board type, version major, minor, patch (30_encoding.md R118) -/
  | cfgword (board major minor patch : Byte)
deriving DecidableEq, Repr

/-- Who takes a step (00_scope.md R15). -/
inductive Agent
  | host | irq | timer | rtc | rng | i2c | radio | env
deriving DecidableEq, Repr

/-- The agent of each row; none for the two internal parts, which are not steps of their own
(44_radio.md R224, 90_conflicts.md C11). -/
def Instr.agent : Instr → Option Agent
  | .timerStart _ => some .host
  | .timerWait => some .host
  | .rtcStart _ => some .host
  | .rtcWait => some .host
  | .rngStart => some .host
  | .rngWait => some .host
  | .rngPoll => some .host
  | .i2cEnable => some .host
  | .i2cDisable => some .host
  | .i2cStart _ _ _ => some .host
  | .i2cWait => some .host
  | .radioInitTx => some .host
  | .radioInitRx => some .host
  | .radioStartTx _ => some .host
  | .radioStartRx => some .host
  | .radioPayload => some .host
  | .radioEventRead _ => some .host
  | .radioEventResetAll => some .host
  | .radioDisable => some .host
  | .radioTakeRx => some .host
  | .codecEncodeEnc _ => some .host
  | .codecEncodePlain _ => some .host
  | .codecDecode _ => some .host
  | .hfclkStart => some .host
  | .hfclkStop => some .host
  | .timerTick => some .timer
  | .rtcTick => some .rtc
  | .rngProduce _ => some .rng
  | .i2cComplete _ => some .i2c
  | .radioRamp => some .radio
  | .radioTxEnd => some .radio
  | .radioRxOffer _ _ => some .radio
  | .radioRxStore => some .radio
  | .radioRxEnd _ => some .radio
  | .radioShortStart => none
  | .radioShortDisable => none
  | .irqTimer => some .irq
  | .irqRtc => some .irq
  | .irqRng => some .irq
  | .irqI2c => some .irq
  | .irqRadioTx => some .irq
  | .irqRadioRx => some .irq
  | .envAirDeliver _ _ _ _ => some .env
  | .envAirDrop _ => some .env
  | .waitTxDone => some .host
  | .blocking _ => some .host
  | .drawNonce => some .host
  | .sendEncrypted _ => some .host
  | .waitRx => some .host
  | .pktPlain _ _ => some .host
  | .pktEnc _ _ => some .host
  | .cfgword _ _ _ _ => some .host

end Sys2Proof
end

