-- ==== Sys2Proof/Config.lean ====
section
/-! DEFINITION. What an implementation fixes and the spec leaves open: the parameters of 00_scope.md R12, the
construction AE of 45_codec.md R271, and the values of unspecified state after power-on (10_state.md R60). Each is a
constant with no body. -/

namespace Sys2Proof

/-- `AIR_BIT_ORDER` (00_scope.md R12). -/
inductive BitOrder
  | lsbFirst | msbFirst
deriving DecidableEq, Repr, Inhabited

/-- `S.radio.dir` (10_state.md R33): which enable task was triggered last. -/
inductive Direction
  | tx | rx
deriving DecidableEq, Repr, Inhabited

/-- The radio's configuration fields (10_state.md R35). `addr` holds `conf.prefix` and `conf.base`. -/
structure RadioConf where
  channel : Nat
  addr : Address
  crcLen : Nat
  crcPoly : BitVec 24
  crcInit : BitVec 24
  rate : Nat
  maxlen : Nat
deriving DecidableEq, Repr, Inhabited

/-- The three writable byte stores (20_memory.md R70). -/
inductive Store
  | buf | sin | sout
deriving DecidableEq, Repr

/-- The named parameters (00_scope.md R12) but AE, and what is fixed in a device and its build beside them: the identity
(46_host_sequences.md R318) and whether records are encrypted (45_codec.md R279). The opaque types CHANNEL, DATA_RATE and LOW_BATT_THRESHOLD are named
by numbers (DESIGN CHOICE, log 7); the type table is a finite list read from the front (30_encoding.md R109);
`ACCEPT_PLAINTEXT` is true unless a build says otherwise (R12, 45_codec.md R286). -/
structure Params where
  key : Key
  cfgword : BitVec 32
  channel : Nat
  addr : Address
  rate : Nat
  crcInit : BitVec 24
  crcCoversAddress : Bool
  bitOrder : BitOrder
  typeTable : List (BitVec 15 × Nat)
  acceptPlaintext : Bool := true
  rtcPeriod : BitVec 32
  lowBatt : Nat
  timerWidth : Nat
  rtcWidth : Nat
  /-- "constants of the device" (46_host_sequences.md R318) -/
  deviceId : BitVec 64
  partId : BitVec 32
  /-- false in "non-secure/dev builds" (45_codec.md R279) -/
  secureBuild : Bool
deriving DecidableEq, Repr, Inhabited

/-- A failure a sensor driver, an external collaborator, reports (60_exceptions.md R341, codes 6 and 7). -/
inductive SensorFault
  | timeout | crc
deriving DecidableEq, Repr

/-- One sensor read of the node: the transaction, and what the sensor's driver makes of it (46_host_sequences.md R313,
R315). -/
structure SensorRead where
  addr : Byte
  wdata : List Byte
  rlen : Byte
  report : Option SensorFault
deriving DecidableEq, Repr

/-- What the environment and the sensors give one pass of the node's loop: the reads, the battery draw, and the record's
parts that vary. How sensor bytes become field bytes is outside the block (00_scope.md R7; log 28). -/
structure CycleInputs where
  reads : List SensorRead
  battery : Nat
  type : BitVec 15
  sensorId : BitVec 16
  fields : List Byte
deriving DecidableEq, Repr, Inhabited

/-- The authenticated-encryption construction with the laws L1, L2 and L4 of 45_codec.md R272; L3 is its being two
functions of their operands. No other law is assumed. -/
structure AE where
  enc : Key → Nonce → List Byte → List Byte
  dec : Key → Nonce → List Byte → Option (List Byte)
  /-- L1, the round trip -/
  dec_enc : ∀ k n p, p.length ≤ 250 → dec k n (enc k n p) = some p
  /-- L2, the length of a ciphertext-and-tag -/
  enc_length : ∀ k n p, p.length ≤ 250 → (enc k n p).length = p.length + 4
  /-- L2, the length of a decrypted plaintext -/
  dec_length : ∀ k n c p, c.length ≤ 254 → dec k n c = some p → p.length + 4 = c.length
  /-- L4, no room for a tag -/
  dec_short : ∀ k n c, c.length < 4 → dec k n c = none

/-- A construction that meets the laws, so that `AE` is known to be inhabited: the plaintext and four zero bytes. -/
def AE.trivialTag : AE where
  enc _ _ p := p ++ [0x00#8, 0x00#8, 0x00#8, 0x00#8]
  dec _ _ c :=
    if 4 ≤ c.length ∧ c.drop (c.length - 4) = [0x00#8, 0x00#8, 0x00#8, 0x00#8] then some (c.take (c.length - 4))
    else none
  dec_enc := by intro _ _ p _; simp
  enc_length := by intro _ _ p _; simp
  dec_length := by
    intro _ _ c p _ h
    split at h
    · rename_i hc
      cases h
      simp
      omega
    · cases h
  dec_short := by
    intro _ _ c h
    rw [if_neg]
    omega

namespace Config

/-- The parameters to which the spec gives no value: one unknown value (log 5). -/
opaque params : Params

/-- The parameters of the machine at power-on: unknown, but for the one that has a default, `ACCEPT_PLAINTEXT`
(00_scope.md R12 and 45_codec.md R286, "default true"; log 29). -/
def defaultParams : Params := { params with acceptPlaintext := true }

/-- The implementation's construction, if it is named; nothing says which it is (log 6). -/
opaque aeChoice : Option AE

/-- `AE` (45_codec.md R271): an unknown construction that meets the laws. Every lawful construction is a value that
`aeChoice` may have; the fallback is there only because Lean asks for some value of the type. -/
def ae : AE := aeChoice.getD AE.trivialTag

/-- What the unspecified registers hold after power-on (10_state.md R60). -/
structure PowerOn where
  timerTarget : Nat
  rtcCompare : Nat
  rngValue : Byte
  dir : Direction
  conf : RadioConf
  rssi : Rssi
  nonce : Nonce
deriving DecidableEq, Repr, Inhabited

/-- The values of the unspecified registers after power-on: unknown (10_state.md R60; log 3). -/
opaque powerOn : PowerOn

/-- What byte `i` of a store reads as while nothing has written it since power-on: a free value (10_state.md R40 to R42,
"Reset: all 258 bytes unspecified"; log 4). -/
opaque unwritten : Store → Nat → Byte

/-- The inputs of the `n`-th pass of the node for which none were supplied: a free value (46_host_sequences.md R313, R330,
"Neither role terminates"; log 31). -/
opaque passInputs : Nat → CycleInputs

end Config

end Sys2Proof
end

