-- ==== Sys2Proof/WellFormed.lean ====
section
/-! DEFINITION. When an operation's operands are ones its format can hold (30_encoding.md R126 and the rule of each
operation). What a `require` clause asks of the STATE is checked by the meaning, not here. -/

namespace Sys2Proof

/-- The body of a frame is as long as its length byte says: `|body| = max(body[0], 1)` (44_radio.md R230, R240;
30_encoding.md R116). -/
def bodyWf : List Byte → Bool
  | [] => false
  | b :: rest => rest.length + 1 == max b.toNat 1

/-- A record has at most 255 field bytes, the length byte of its operation word (30_encoding.md R126). -/
def recordWf (r : Record) : Bool := r.fields.length ≤ 255

/-- The operands of an I2C transaction: a 7-bit address and at most 255 bytes to write (42_i2c.md R184). -/
def i2cWf (addr : Byte) (wdata : List Byte) : Bool := decide (addr.toNat < 128) && decide (wdata.length ≤ 255)

/-- The operands of `BLOCKING` are those of the `start` it abbreviates (30_encoding.md R129). -/
def BlockingCall.wf : BlockingCall → Bool
  | .timer _ => true
  | .rtc _ => true
  | .i2c addr wdata _ => i2cWf addr wdata
  | .rng => true

/-- Well-formed operands, constructor by constructor. -/
def Instr.wf : Instr → Bool
  | .timerStart _ => true
  | .timerWait => true
  | .rtcStart _ => true
  | .rtcWait => true
  | .rngStart => true
  | .rngWait => true
  | .rngPoll => true
  | .i2cEnable => true
  | .i2cDisable => true
  | .i2cStart addr wdata _ => i2cWf addr wdata
  | .i2cWait => true
  | .radioInitTx => true
  | .radioInitRx => true
  | .radioStartTx strings => decide (strings.length ≤ 255) && strings.all (fun b => decide (b.length < 65536))
  | .radioStartRx => true
  | .radioPayload => true
  | .radioEventRead k => decide (k.toNat ≤ 7)
  | .radioEventResetAll => true
  | .radioDisable => true
  | .radioTakeRx => true
  | .codecEncodeEnc r => recordWf r
  | .codecEncodePlain r => recordWf r
  | .codecDecode .view => true
  | .codecDecode (.inline bytes) => decide (bytes.length < 65536)
  | .hfclkStart => true
  | .hfclkStop => true
  | .timerTick => true
  | .rtcTick => true
  | .rngProduce _ => true
  | .i2cComplete (.ack rbytes) => decide (rbytes.length ≤ 255)
  | .i2cComplete .nack => true
  | .i2cComplete .busFault => true
  | .i2cComplete .stall => true
  | .radioRamp => true
  | .radioTxEnd => true
  | .radioRxOffer f _ => bodyWf f.body
  | .radioRxStore => true
  | .radioRxEnd tail => decide (tail.length ≤ 257)
  | .radioShortStart => true
  | .radioShortDisable => true
  | .irqTimer => true
  | .irqRtc => true
  | .irqRng => true
  | .irqI2c => true
  | .irqRadioTx => true
  | .irqRadioRx => true
  | .envAirDeliver _ body _ _ => bodyWf body
  | .envAirDrop _ => true
  | .waitTxDone => true
  | .blocking c => c.wf
  | .drawNonce => true
  | .sendEncrypted r => recordWf r
  | .waitRx => true
  | .pktPlain _ content => decide (content.length ≤ 252)
  | .pktEnc _ content => decide (content.length ≤ 252)
  | .cfgword _ _ _ _ => true

end Sys2Proof
end

