-- ==== Sys2Proof/Decode.lean ====
section
/-! DEFINITION. The three readers of bits: operation words (30_encoding.md R126), packet tags (R103, R104) and the
configuration word (R118); then the encoder; and the byte-order helpers both use. -/

namespace Sys2Proof

/-- `le16`, `le32`, `le64` of 00_scope.md R16 as one function: the number whose least significant byte comes first. -/
def leNat : List Byte → Nat
  | [] => 0
  | b :: bs => b.toNat + 256 * leNat bs

/-- `LE16`, `LE32`, `LE64` of 00_scope.md R16 as one function: the `n` low bytes of `v`, least significant first. -/
def leBytes : Nat → Nat → List Byte
  | 0, _ => []
  | n + 1, v => BitVec.ofNat 8 v :: leBytes n (v / 256)

/-- Why bytes are no operation word, packet tag or configuration word. -/
inductive DecodeError
  /-- the operation byte is not in the map of 30_encoding.md R125 -/
  | unknownOperation (op : Byte)
  /-- the operation word ends before its operands do -/
  | truncated
  /-- bit 15 of the `type` operand is set (30_encoding.md R126: "`LE16(type)` with bit 15 = 0") -/
  | typeBit15
  /-- the payload selector is neither 0x00 nor 0x01 (30_encoding.md R126) -/
  | payloadSelector (sel : Byte)
  /-- fewer than two payload bytes: no complete tag (30_encoding.md R123(b)) -/
  | noTag
deriving DecidableEq, Repr

/-- What a reader answers: the instruction and the bytes after it, or the reason. -/
abbrev Decoded := Except DecodeError (Instr × List Byte)

/-- The first `n` bytes and the rest, if there are that many. -/
def takeBytes (n : Nat) (bs : List Byte) : Except DecodeError (List Byte × List Byte) :=
  if n ≤ bs.length then .ok (bs.take n, bs.drop n) else .error .truncated

/-- A length byte, then that many bytes (30_encoding.md R126, `wdata` and a record's fields). -/
def takeCounted : List Byte → Except DecodeError (List Byte × List Byte)
  | [] => .error .truncated
  | n :: bs => takeBytes n.toNat bs

/-- An `LE16` length, then that many bytes (30_encoding.md R126). -/
def takeCounted16 : List Byte → Except DecodeError (List Byte × List Byte)
  | a :: b :: bs => takeBytes (leNat [a, b]) bs
  | _ => .error .truncated

/-- `n` byte strings, each with its `LE16` length (30_encoding.md R126). -/
def takeStrings : Nat → List Byte → Except DecodeError (List (List Byte) × List Byte)
  | 0, bs => .ok ([], bs)
  | n + 1, bs =>
    match takeCounted16 bs with
    | .error e => .error e
    | .ok (x, rest) =>
      match takeStrings n rest with
      | .error e => .error e
      | .ok (xs, rest') => .ok (x :: xs, rest')

/-- An `LE32` operand (`ticks`, `compare`; 30_encoding.md R126). -/
def take32 (bs : List Byte) : Except DecodeError (BitVec 32 × List Byte) :=
  match takeBytes 4 bs with
  | .error e => .error e
  | .ok (x, rest) => .ok (BitVec.ofNat 32 (leNat x), rest)

/-- The operands of `I2C_START`: address, counted write data, read length (30_encoding.md R126). -/
def takeI2c : List Byte → Except DecodeError ((Byte × List Byte × Byte) × List Byte)
  | [] => .error .truncated
  | addr :: bs =>
    match takeCounted bs with
    | .error e => .error e
    | .ok (_, []) => .error .truncated
    | .ok (wdata, rlen :: rest) => .ok ((addr, wdata, rlen), rest)

/-- The record whose 20 fixed bytes are `h` and whose field bytes are `fields` (30_encoding.md R126). -/
def recordOf (h fields : List Byte) : Record where
  type := BitVec.ofNat 15 (leNat (h.take 2))
  deviceId := BitVec.ofNat 64 (leNat ((h.drop 2).take 8))
  partId := BitVec.ofNat 32 (leNat ((h.drop 10).take 4))
  seq := BitVec.ofNat 32 (leNat ((h.drop 14).take 4))
  sensorId := BitVec.ofNat 16 (leNat ((h.drop 18).take 2))
  fields := fields

/-- A record operand: 20 fixed bytes, then the counted field bytes (30_encoding.md R126). -/
def takeRecord (bs : List Byte) : Except DecodeError (Record × List Byte) :=
  match takeBytes 20 bs with
  | .error e => .error e
  | .ok (h, rest) =>
    if leNat (h.take 2) < 32768 then
      match takeCounted rest with
      | .error e => .error e
      | .ok (fields, rest') => .ok (recordOf h fields, rest')
    else .error .typeBit15

/-- The payload operand of `CODEC_DECODE` (30_encoding.md R126). -/
def takePayload : List Byte → Except DecodeError (Payload × List Byte)
  | [] => .error .truncated
  | sel :: bs =>
    if sel = 0x00#8 then .ok (.view, bs)
    else if sel = 0x01#8 then
      match takeCounted16 bs with
      | .error e => .error e
      | .ok (v, rest) => .ok (.inline v, rest)
    else .error (.payloadSelector sel)

/-- Build the instruction from what an operand reader answers. -/
def decodedAs {α : Type} (f : α → Instr) : Except DecodeError (α × List Byte) → Decoded
  | .ok (x, rest) => .ok (f x, rest)
  | .error e => .error e

/-- The operation map of 30_encoding.md R125: operation byte `op`, operands from `bs`. "Every other value of the
operation byte is not an operation". -/
def decodeOperands (op : Byte) (bs : List Byte) : Decoded :=
  match op.toNat with
  | 0x01 => decodedAs .timerStart (take32 bs)
  | 0x02 => .ok (.timerWait, bs)
  | 0x03 => decodedAs .rtcStart (take32 bs)
  | 0x04 => .ok (.rtcWait, bs)
  | 0x05 => .ok (.rngStart, bs)
  | 0x06 => .ok (.rngWait, bs)
  | 0x07 => .ok (.rngPoll, bs)
  | 0x08 => .ok (.i2cEnable, bs)
  | 0x09 => .ok (.i2cDisable, bs)
  | 0x0A => decodedAs (fun x => .i2cStart x.1 x.2.1 x.2.2) (takeI2c bs)
  | 0x0B => .ok (.i2cWait, bs)
  | 0x10 => .ok (.radioInitTx, bs)
  | 0x11 => .ok (.radioInitRx, bs)
  | 0x12 =>
    match bs with
    | [] => .error .truncated
    | n :: rest => decodedAs .radioStartTx (takeStrings n.toNat rest)
  | 0x13 => .ok (.radioStartRx, bs)
  | 0x14 => .ok (.radioPayload, bs)
  | 0x15 =>
    match bs with
    | [] => .error .truncated
    | k :: rest => .ok (.radioEventRead k, rest)
  | 0x16 => .ok (.radioEventResetAll, bs)
  | 0x17 => .ok (.radioDisable, bs)
  | 0x18 => .ok (.radioTakeRx, bs)
  | 0x20 => decodedAs .codecEncodeEnc (takeRecord bs)
  | 0x21 => decodedAs .codecEncodePlain (takeRecord bs)
  | 0x22 => decodedAs .codecDecode (takePayload bs)
  | 0x30 => .ok (.hfclkStart, bs)
  | 0x31 => .ok (.hfclkStop, bs)
  | _ => .error (.unknownOperation op)

/-- Read one operation word from the front of a stream of words (30_encoding.md R126). -/
def decodeOp : List Byte → Decoded
  | [] => .error .truncated
  | op :: bs => decodeOperands op bs

/-- Read a payload by its tag (30_encoding.md R103, R104): bit 15 of `le16` of the first two bytes selects the
layout, the low 15 bits are the type, the rest is the content. -/
def decodePacket : List Byte → Decoded
  | a :: b :: content =>
    let tag := leNat [a, b]
    if tag < 32768 then .ok (.pktPlain (BitVec.ofNat 15 tag) content, [])
    else .ok (.pktEnc (BitVec.ofNat 15 tag) content, [])
  | _ => .error .noTag

/-- Read the configuration word by its four 8-bit fields, most significant first (30_encoding.md R118). -/
def decodeConfig (w : BitVec 32) : Instr :=
  .cfgword (w.extractLsb' 24 8) (w.extractLsb' 16 8) (w.extractLsb' 8 8) (w.extractLsb' 0 8)

/-! ### The encoder -/

/-- The bits of an encoded instruction, by the format that gives them. -/
inductive Coded
  /-- an operation word, `F-OP` -/
  | op (bytes : List Byte)
  /-- a payload that begins with its tag, `F-TAG` -/
  | packet (payload : List Byte)
  /-- the configuration word, `F-CFG` -/
  | config (w : BitVec 32)
deriving DecidableEq, Repr

/-- A length byte and the bytes (30_encoding.md R126). -/
def counted (bs : List Byte) : List Byte := BitVec.ofNat 8 bs.length :: bs

/-- An `LE16` length and the bytes (30_encoding.md R126). -/
def counted16 (bs : List Byte) : List Byte := leBytes 2 bs.length ++ bs

/-- The identity, sequence and sensor bytes and the fields of a record: `ser(R)` of 45_codec.md R273, the layout
`F-REC` of 30_encoding.md R108. -/
def ser (r : Record) : List Byte :=
  leBytes 8 r.deviceId.toNat ++ leBytes 4 r.partId.toNat ++ leBytes 4 r.seq.toNat ++ leBytes 2 r.sensorId.toNat
    ++ r.fields

/-- A record operand (30_encoding.md R126). -/
def recordBytes (r : Record) : List Byte :=
  leBytes 2 r.type.toNat ++ leBytes 8 r.deviceId.toNat ++ leBytes 4 r.partId.toNat ++ leBytes 4 r.seq.toNat
    ++ leBytes 2 r.sensorId.toNat ++ counted r.fields

/-- The wire tag of a plaintext packet: bit 15 clear (30_encoding.md R112(a)). -/
def plainTag (t : BitVec 15) : Nat := t.toNat

/-- The wire tag of an encrypted packet, `type OR 0x8000` (30_encoding.md R112(a)). -/
def encTag (t : BitVec 15) : Nat := t.toNat ||| 0x8000

/-- The bits of an instruction. The internal steps and the pseudo-operations have none (30_encoding.md R127, R129). -/
def encode : Instr → Option Coded
  | .timerStart ticks => some (.op (0x01#8 :: leBytes 4 ticks.toNat))
  | .timerWait => some (.op [0x02#8])
  | .rtcStart compare => some (.op (0x03#8 :: leBytes 4 compare.toNat))
  | .rtcWait => some (.op [0x04#8])
  | .rngStart => some (.op [0x05#8])
  | .rngWait => some (.op [0x06#8])
  | .rngPoll => some (.op [0x07#8])
  | .i2cEnable => some (.op [0x08#8])
  | .i2cDisable => some (.op [0x09#8])
  | .i2cStart addr wdata rlen => some (.op (0x0A#8 :: addr :: (counted wdata ++ [rlen])))
  | .i2cWait => some (.op [0x0B#8])
  | .radioInitTx => some (.op [0x10#8])
  | .radioInitRx => some (.op [0x11#8])
  | .radioStartTx strings => some (.op (0x12#8 :: BitVec.ofNat 8 strings.length :: strings.flatMap counted16))
  | .radioStartRx => some (.op [0x13#8])
  | .radioPayload => some (.op [0x14#8])
  | .radioEventRead k => some (.op [0x15#8, k])
  | .radioEventResetAll => some (.op [0x16#8])
  | .radioDisable => some (.op [0x17#8])
  | .radioTakeRx => some (.op [0x18#8])
  | .codecEncodeEnc r => some (.op (0x20#8 :: recordBytes r))
  | .codecEncodePlain r => some (.op (0x21#8 :: recordBytes r))
  | .codecDecode .view => some (.op [0x22#8, 0x00#8])
  | .codecDecode (.inline bytes) => some (.op (0x22#8 :: 0x01#8 :: counted16 bytes))
  | .hfclkStart => some (.op [0x30#8])
  | .hfclkStop => some (.op [0x31#8])
  | .timerTick => none
  | .rtcTick => none
  | .rngProduce _ => none
  | .i2cComplete _ => none
  | .radioRamp => none
  | .radioTxEnd => none
  | .radioRxOffer _ _ => none
  | .radioRxStore => none
  | .radioRxEnd _ => none
  | .radioShortStart => none
  | .radioShortDisable => none
  | .irqTimer => none
  | .irqRtc => none
  | .irqRng => none
  | .irqI2c => none
  | .irqRadioTx => none
  | .irqRadioRx => none
  | .envAirDeliver _ _ _ _ => none
  | .envAirDrop _ => none
  | .waitTxDone => none
  | .blocking _ => none
  | .drawNonce => none
  | .sendEncrypted _ => none
  | .waitRx => none
  | .pktPlain t content => some (.packet (leBytes 2 (plainTag t) ++ content))
  | .pktEnc t content => some (.packet (leBytes 2 (encTag t) ++ content))
  | .cfgword b m n p => some (.config (b ++ m ++ n ++ p))

/-- Read encoded bits by their format. -/
def decode : Coded → Decoded
  | .op bytes => decodeOp bytes
  | .packet payload => decodePacket payload
  | .config w => .ok (decodeConfig w, [])

/-! ### The opcode table's words -/

/-- More zero bytes than the longest operand field of zeros has (30_encoding.md R126: a record of no field bytes has 21). -/
def zeroOperands : List Byte := List.replicate 24 0x00#8

/-- The bits of an instruction as the opcode table numbers them: 16 bits are a packet tag, 32 the configuration word,
and anything else an operation word followed by operand bytes of zero. -/
def tableWord (nbits w : Nat) : Coded :=
  if nbits = 16 then .packet (leBytes 2 w)
  else if nbits = 32 then .config (BitVec.ofNat 32 w)
  else .op (leBytes (nbits / 8) w ++ zeroOperands)

/-- The instruction the decoder reads from a word of the opcode table. -/
def decodeTableWord (nbits w : Nat) : Option Instr :=
  match decode (tableWord nbits w) with
  | .ok (i, _) => some i
  | .error _ => none

end Sys2Proof
end

