-- ==== Sys2Proof/Machine/State.lean ====
section
/-! DEFINITION. The whole state of the block (10_state.md R22), the model's own fields beside it, the reasons a step can
stop, and the state after power-on (R60). -/

namespace Sys2Proof.Machine

/-- Bytes listed by address, strictly rising (`Memory.wf` in Machine/Ops.lean). An address that is not listed has not been
written since power-on. -/
abbrev Memory := List Host.Cell

/-- The four blocking peripherals (40_blocking_primitive.md: "`P` ranges over `timer`, `rtc`, `i2c`, `rng`"). -/
inductive Periph
  | timer | rtc | i2c | rng
deriving DecidableEq, Repr

/-- `S.P.phase` (10_state.md R23). -/
inductive Phase
  | idle | active
deriving DecidableEq, Repr

/-- The handle, completion flag and interrupt enable of one blocking peripheral (10_state.md R23 to R25). -/
structure Handle where
  phase : Phase
  done : Bool
  inten : Bool
deriving DecidableEq, Repr

/-- The one-shot timer (10_state.md R26). -/
structure Timer where
  hd : Handle
  counter : Nat
  target : Nat
  running : Bool
deriving DecidableEq, Repr

/-- The real-time counter (10_state.md R27). -/
structure Rtc where
  hd : Handle
  counter : Nat
  compare : Nat
  running : Bool
deriving DecidableEq, Repr

/-- A transaction `(addr: 7 bits, wdata: bytes, rlen: natural)` (10_state.md R30). -/
structure Txn where
  addr : BitVec 7
  wdata : List Byte
  rlen : Nat
deriving DecidableEq, Repr

/-- `S.i2c.err` (10_state.md R31). -/
inductive BusError
  | noError | nack | bus
deriving DecidableEq, Repr

/-- The I2C driver (10_state.md R29 to R31). -/
structure I2c where
  hd : Handle
  enabled : Bool
  txn : Option Txn
  rdata : List Byte
  err : BusError
deriving DecidableEq, Repr

/-- The random generator (10_state.md R28). -/
structure Rng where
  hd : Handle
  value : Byte
deriving DecidableEq, Repr

/-- `S.radio.state` (10_state.md R32). -/
inductive RadioState
  | disabled | ready | tx | rx
deriving DecidableEq, Repr

/-- `S.radio.cfg` (10_state.md R34). -/
inductive RadioCfg
  | noCfg | txCfg | rxCfg
deriving DecidableEq, Repr

/-- `S.radio.shorts` (10_state.md R36). -/
structure Shorts where
  readyStart : Bool
  endDisable : Bool
deriving DecidableEq, Repr

/-- `S.radio.ev`, in the order of 10_state.md R37; `ended` is the spec's `ev.end`. -/
structure Events where
  ready : Bool
  address : Bool
  addrmiss : Bool
  payload : Bool
  crcok : Bool
  crcerror : Bool
  ended : Bool
  disabled : Bool
deriving DecidableEq, Repr

/-- `S.radio.pktptr` (10_state.md R39). -/
inductive PktPtr
  | unset | toBuf
deriving DecidableEq, Repr

/-- `S.radio.rx_latch` (10_state.md R43). -/
inductive RxLatch
  | noRx | rxGood | rxBad
deriving DecidableEq, Repr

/-- `S.radio` (10_state.md R32 to R39, R43 to R46). -/
structure Radio where
  state : RadioState
  dir : Direction
  cfg : RadioCfg
  conf : RadioConf
  shorts : Shorts
  ev : Events
  inten : Bool
  pktptr : PktPtr
  rxLatch : RxLatch
  rssi : Rssi
  rxProg : Option (Frame × Nat)
  txProg : Option Frame
deriving DecidableEq, Repr

/-- `S.cpu.mode` (10_state.md R50). -/
inductive CpuMode
  | running | sleeping | halted
deriving DecidableEq, Repr

/-- The typed failures of 60_exceptions.md R341. -/
inductive Failure
  | i2cNack | i2cBus | authFail | malformed | plaintextRejected | sensorTimeout | sensorCrc
deriving DecidableEq, Repr

/-- Why an operation was refused (00_scope.md R18): which `require` clause, or which defect of the operation word, it
broke. The hardware has no such record; it serves the reader of a run (log 11). -/
inductive Misuse
  /-- `start` while Active, or an operation that needs the peripheral Idle (40_blocking_primitive.md R147) -/
  | notIdle (p : Periph)
  /-- `wait` or a poll while Idle (40_blocking_primitive.md R147) -/
  | notActive (p : Periph)
  /-- 41_timer_rtc.md R162 -/
  | ticksOutOfRange
  /-- 41_timer_rtc.md R169 -/
  | compareOutOfRange
  /-- 42_i2c.md R184: the bus is disabled -/
  | busDisabled
  /-- 42_i2c.md R184: address, lengths -/
  | transactionOperands
  /-- 44_radio.md R217, R218, R222, R223; 46_host_sequences.md R321 -/
  | radioNotDisabled
  /-- 44_radio.md R222, R223: not configured for the role -/
  | radioNotConfigured
  /-- 44_radio.md R222: more than 257 bytes -/
  | tooManyBytes
  /-- 44_radio.md R249: a flag index above 7 -/
  | flagIndex
  /-- 45_codec.md R276, R279: the record is not well typed -/
  | notWellTyped
  /-- 45_codec.md R277, R279: the packet would not fit -/
  | recordTooLong
  /-- 30_encoding.md R125, R126: the bytes are no operation word -/
  | notAnOperation (e : DecodeError)
  /-- a host program encodes before it has assembled a record -/
  | noRecord
deriving DecidableEq, Repr

/-- The value of a completed operation (30_encoding.md R125, column "Result"). -/
inductive Value
  | unit
  | byte (b : Byte)
  /-- `RNG_POLL`: pending, or ready with a byte (43_rng.md R206) -/
  | poll (b : Option Byte)
  | bytes (bs : List Byte)
  | flag (b : Bool)
  /-- `RADIO_PAYLOAD`: none, or offset and length of the view (44_radio.md R251) -/
  | view (v : Option (Nat × Nat))
  /-- `RADIO_TAKE_RX` (44_radio.md R252) -/
  | reception (latch : RxLatch) (rssi : Rssi)
  | strings (xs : List (List Byte))
  | record (r : Record)
  /-- the boot read of the configuration word (30_encoding.md R118) -/
  | config (board major minor patch : Byte)
deriving DecidableEq, Repr

/-- The outcome of the host's last operation (00_scope.md R18: `ok`, `err`, held, refused). -/
inductive Result
  | idle
  | ok (v : Value)
  | err (e : Failure)
  | held
  | refused (why : Misuse)
deriving DecidableEq, Repr

/-- What the host reads its next operation from. -/
inductive HostWord
  /-- bytes of one or more operation words, one after another (30_encoding.md R126) -/
  | call (bytes : List Byte)
  /-- the payload in `BUF`, by its packet layout (30_encoding.md R104; log 13) -/
  | packet
  /-- the configuration word, at boot (70_reset_and_hazards.md R385; log 13) -/
  | bootRead
deriving DecidableEq, Repr

/-- A host step still to be taken (log 12, log 15, log 21). -/
inductive Task
  /-- an operation: a held one again, or the next one of a program -/
  | op (i : Instr)
  /-- `RNG_START` inside `DRAW_NONCE` (43_rng.md R207) -/
  | nonceStart
  /-- `nonce[i] <- RNG_WAIT` inside `DRAW_NONCE` (43_rng.md R207) -/
  | nonceTake (i : Fin 8)
  /-- the part of `CODEC_ENCODE_ENC` after the nonce is drawn (45_codec.md R276) -/
  | encodeFinish (r : Record)
  /-- the boot read of the configuration word, before role set-up (70_reset_and_hazards.md R383, R385; log 13) -/
  | bootRead
  /-- `RADIO_START_TX(pkt)` (46_host_sequences.md R313) -/
  | sendPacket
  /-- the host's reaction to an unhandled failure (46_host_sequences.md R315) -/
  | haltOnFailure
  /-- a sensor driver, an external collaborator, reports (60_exceptions.md R341, codes 6 and 7) -/
  | sensorReport (f : Option SensorFault)
  /-- the battery reading `v` against the threshold (46_host_sequences.md R316, R317) -/
  | battery (v : Nat)
  /-- assemble the record and increment the sequence index (46_host_sequences.md R318) -/
  | assemble (t : BitVec 15) (sensorId : BitVec 16) (fields : List Byte)
  /-- encode the assembled record, encrypted, or plaintext in a development build (46_host_sequences.md R313) -/
  | encodeRecord
  /-- the top of the node's loop (46_host_sequences.md R313) -/
  | nodeLoop
  /-- the node's pass from its sampling on, with the inputs the environment supplies for it (46_host_sequences.md R313) -/
  | nodeSample
  /-- the fail-dead loop (46_host_sequences.md R317) -/
  | lowBattery
  /-- the gateway looks at what `RADIO_TAKE_RX` returned (46_host_sequences.md R325) -/
  | gatewayCheck
  /-- the gateway looks at what `RADIO_PAYLOAD` returned (46_host_sequences.md R325) -/
  | gatewayView
  /-- the gateway forwards a decoded record or discards a failure (46_host_sequences.md R325, R328) -/
  | gatewayForward
  /-- the gateway's loop (46_host_sequences.md R325) -/
  | gatewayLoop
deriving DecidableEq, Repr

/-- What the gateway forwards (45_codec.md R288). -/
structure Forwarded where
  deviceId : BitVec 64
  seq : BitVec 32
  sensorId : BitVec 16
  fields : List Byte
  rssi : Rssi
deriving DecidableEq, Repr

/-- The host's side: the model's own bookkeeping, no element of the spec's `S` (log 11). `view` is the current payload
view, the pair the last `RADIO_PAYLOAD` returned (20_memory.md R91; log 17); `inputs` are those of the node's coming
passes (log 28), and `passes` counts the passes that had none and drew theirs, the model's counter for the free value
`Config.passInputs` (log 31). -/
structure HostSide where
  words : List HostWord
  todo : List Task
  result : Result
  pkt : List (List Byte)
  view : Option (Nat × Nat)
  inputs : List CycleInputs
  passes : Nat
  record : Option Record
  rssi : Rssi
  forwarded : List Forwarded
deriving DecidableEq, Repr

/-- Whose step is next (00_scope.md R15; log 1). -/
inductive Turn
  /-- the host: go on with the operation it is inside, or issue the next one -/
  | host
  /-- the agent of the internal step `i` takes that step, with the draws it carries -/
  | agent (i : Instr)
deriving DecidableEq, Repr

/-- The state of the block: the elements of 10_state.md R22; the read-only parameters `par`; and the model's own fields
`host`, `turns` and `air` (log 1, 5, 11, 18). -/
structure State where
  timer : Timer
  rtc : Rtc
  i2c : I2c
  rng : Rng
  radio : Radio
  buf : Memory
  sin : Memory
  sout : Memory
  nonce : Nonce
  seq : BitVec 32
  mode : CpuMode
  hfclk : Bool
  refused : Bool
  par : Params
  host : HostSide
  turns : List Turn
  air : List Frame
deriving DecidableEq, Repr

/-- Why the machine stops with a fault. -/
inductive Fault
  /-- a byte would be stored at an index outside its store; raised by `RADIO_RX_STORE` for a frame longer than `BUF`,
  which no run reaches (20_memory.md R78: "No rule computes an index outside a space"). Safe. -/
  | outsideStore (store : Store) (index : Nat)
deriving DecidableEq, Repr

/-- Why a step has no meaning. -/
inductive Refusal
  /-- raised by `exec` for an instruction that has no meaning yet; none is left. Safe. -/
  | notModelled (mnemonic : String)
  /-- raised by the step when the agenda gives an agent's turn to an instruction that is no step of an agent: a host
  operation, or an internal part, "never separate steps" (44_radio.md R224). Safe. -/
  | notAnAgentStep
deriving DecidableEq, Repr

/-- A step's outcome in this machine. -/
abbrev Out := Host.Outcome State Fault Refusal

/-- A handle after power-on (10_state.md R60). -/
def Handle.reset : Handle := { phase := .idle, done := false, inten := false }

/-- All eight flags false (10_state.md R60). -/
def Events.clear : Events :=
  { ready := false, address := false, addrmiss := false, payload := false, crcok := false, crcerror := false,
    ended := false, disabled := false }

/-- The machine after power-on (10_state.md R60). What is unspecified there is an unknown constant (log 3, log 4); the
model's own fields are empty (log 11). -/
def State.reset : State where
  timer :=
    { hd := Handle.reset, counter := 0, target := Config.powerOn.timerTarget % 2 ^ Config.params.timerWidth,
      running := false }
  rtc :=
    { hd := Handle.reset, counter := 0, compare := Config.powerOn.rtcCompare % 2 ^ Config.params.rtcWidth,
      running := false }
  i2c := { hd := Handle.reset, enabled := false, txn := none, rdata := [], err := .noError }
  rng := { hd := Handle.reset, value := Config.powerOn.rngValue }
  radio :=
    { state := .disabled, dir := Config.powerOn.dir, cfg := .noCfg, conf := Config.powerOn.conf,
      shorts := { readyStart := false, endDisable := false }, ev := Events.clear, inten := false, pktptr := .unset,
      rxLatch := .noRx, rssi := Config.powerOn.rssi, rxProg := none, txProg := none }
  buf := []
  sin := []
  sout := []
  nonce := Config.powerOn.nonce
  seq := 0
  mode := .running
  hfclk := false
  refused := false
  par := Config.defaultParams
  host :=
    { words := [], todo := [], result := .idle, pkt := [], view := none, inputs := [], passes := 0, record := none,
      rssi := Config.powerOn.rssi, forwarded := [] }
  turns := []
  air := []

end Sys2Proof.Machine
end

