-- ==== Sys2Proof/Machine/Ops.lean ====
section
/-! DEFINITION. The shared operations: one update per state element, the byte stores, the handles of the blocking
primitive (40_blocking_primitive.md), the outcomes of an operation (00_scope.md R18), interrupt service (60_exceptions.md
R349 to R351) and the radio's disable task (44_radio.md R245). Every meaning is written over these. -/

namespace Sys2Proof.Machine

/-! ### One update per element of State -/

/-- `S.timer <- x`. -/
def State.setTimer (s : State) (x : Timer) : State := { s with timer := x }

/-- `S.rtc <- x`. -/
def State.setRtc (s : State) (x : Rtc) : State := { s with rtc := x }

/-- `S.i2c <- x`. -/
def State.setI2c (s : State) (x : I2c) : State := { s with i2c := x }

/-- `S.rng <- x`. -/
def State.setRng (s : State) (x : Rng) : State := { s with rng := x }

/-- `S.radio <- x`. -/
def State.setRadio (s : State) (x : Radio) : State := { s with radio := x }

/-- `S.buf <- x`. -/
def State.setBuf (s : State) (x : Memory) : State := { s with buf := x }

/-- `S.sin <- x`. -/
def State.setSin (s : State) (x : Memory) : State := { s with sin := x }

/-- `S.sout <- x`. -/
def State.setSout (s : State) (x : Memory) : State := { s with sout := x }

/-- `S.nonce <- x`. -/
def State.setNonce (s : State) (x : Nonce) : State := { s with nonce := x }

/-- `S.seq <- x`. -/
def State.setSeq (s : State) (x : BitVec 32) : State := { s with seq := x }

/-- `S.mode <- x`. -/
def State.setMode (s : State) (x : CpuMode) : State := { s with mode := x }

/-- `S.hfclk <- x`. -/
def State.setHfclk (s : State) (x : Bool) : State := { s with hfclk := x }

/-- `S.refused <- x`. -/
def State.setRefused (s : State) (x : Bool) : State := { s with refused := x }

/-- `S.par <- x`. -/
def State.setPar (s : State) (x : Params) : State := { s with par := x }

/-- `S.host <- x`. -/
def State.setHost (s : State) (x : HostSide) : State := { s with host := x }

/-- `S.turns <- x`. -/
def State.setTurns (s : State) (x : List Turn) : State := { s with turns := x }

/-- `S.air <- x`. -/
def State.setAir (s : State) (x : List Frame) : State := { s with air := x }

/-! ### The byte stores -/

/-- The number of bytes of a store (20_memory.md R70). -/
def storeSize : Store → Nat
  | .buf => 258
  | .sin => 257
  | .sout => 257

/-- The listed byte at an address, if any. -/
def Memory.read : Memory → Nat → Option Byte
  | [], _ => none
  | (k, v) :: m, a => if k = a then some v else Memory.read m a

/-- List a byte at an address, in place of the byte listed there. -/
def Memory.write : Memory → Nat → Byte → Memory
  | [], a, v => [(a, v)]
  | (k, w) :: m, a, v =>
    if a < k then (a, v) :: (k, w) :: m else if a = k then (a, v) :: m else (k, w) :: Memory.write m a v

/-- `MemWrite(space, a, |bs|, bs)` on one store (00_scope.md R17). -/
def Memory.writeBytes : Memory → Nat → List Byte → Memory
  | m, _, [] => m
  | m, a, b :: bs => Memory.writeBytes (Memory.write m a b) (a + 1) bs

/-- The canonical form: addresses strictly rising, each inside a store of `size` bytes. -/
def Memory.wf (size : Nat) (m : Memory) : Bool :=
  decide (m.Pairwise fun x y => x.1 < y.1) && m.all fun x => decide (x.1 < size)

/-- What an address that is not listed reads as: the free value of an unwritten byte (10_state.md R40 to R42, log 4). -/
def unlisted (st : Store) (a : Nat) : Byte := Config.unwritten st a

/-- A store's list. -/
def State.store (s : State) : Store → Memory
  | .buf => s.buf
  | .sin => s.sin
  | .sout => s.sout

/-- One byte of a store as an operation sees it. -/
def State.byteAt (s : State) (st : Store) (a : Nat) : Byte := (Memory.read (s.store st) a).getD (unlisted st a)

/-- `MemRead(space, a, n)` (00_scope.md R17). -/
def State.memRead (s : State) (st : Store) (a n : Nat) : List Byte :=
  (List.range n).map fun j => s.byteAt st (a + j)

/-- `MemWrite(space, a, |bs|, bs)` (00_scope.md R17). Its callers keep `a + |bs|` inside the store (20_memory.md R78). -/
def State.memWrite (s : State) (st : Store) (a : Nat) (bs : List Byte) : State :=
  match st with
  | .buf => s.setBuf (Memory.writeBytes s.buf a bs)
  | .sin => s.setSin (Memory.writeBytes s.sin a bs)
  | .sout => s.setSout (Memory.writeBytes s.sout a bs)

/-- Fill a scratch buffer: the 3-byte header with the content length, then the content (30_encoding.md R110, R111). -/
def State.fillScratch (s : State) (st : Store) (content : List Byte) : State :=
  s.memWrite st 0 (0x00#8 :: BitVec.ofNat 8 content.length :: 0x00#8 :: content)

/-! ### The outcome of an operation (00_scope.md R18) -/

/-- Record the host's outcome (log 11). -/
def State.setResult (s : State) (r : Result) : State := s.setHost { s.host with result := r }

/-- Put tasks before what the host has still to do (log 12, log 15). -/
def State.pushTasks (s : State) (ts : List Task) : State := s.setHost { s.host with todo := ts ++ s.host.todo }

/-- `return ok(v)`. -/
def State.ok (s : State) (v : Value) : State := s.setResult (.ok v)

/-- `raise E`: the operation ends with the typed failure (00_scope.md R17, 60_exceptions.md R340). -/
def State.raise (s : State) (e : Failure) : State := s.setResult (.err e)

/-- A refused operation: "`S.refused <- true` and no other write" (40_blocking_primitive.md R147). The outcome is the
model's record of it (log 10, log 11). -/
def State.refuse (s : State) (why : Misuse) : State := (s.setRefused true).setResult (.refused why)

/-- The host is held inside `t`: it sleeps, and its next step is `t` again (40_blocking_primitive.md R143, R144; log 12). -/
def State.hold (s : State) (t : Task) : State := ((s.setMode .sleeping).pushTasks [t]).setResult .held

/-- End an operation whose `require` clauses are checked by `x`: its own effect, or refusal. -/
def settle (s : State) : Except Misuse State → State
  | .ok t => t
  | .error why => s.refuse why

/-! ### The blocking operation primitive (40_blocking_primitive.md) -/

/-- The handle part of a peripheral. -/
def State.handle (s : State) : Periph → Handle
  | .timer => s.timer.hd
  | .rtc => s.rtc.hd
  | .i2c => s.i2c.hd
  | .rng => s.rng.hd

/-- Write the handle part of a peripheral. -/
def State.setHandle (s : State) (p : Periph) (h : Handle) : State :=
  match p with
  | .timer => s.setTimer { s.timer with hd := h }
  | .rtc => s.setRtc { s.rtc with hd := h }
  | .i2c => s.setI2c { s.i2c with hd := h }
  | .rng => s.setRng { s.rng with hd := h }

/-- The last two writes of `P.start`: `inten <- true`, `phase <- Active` (40_blocking_primitive.md R141). -/
def State.startHandle (s : State) (p : Periph) : State :=
  s.setHandle p { s.handle p with inten := true, phase := .active }

/-- The three writes of `P.wait` (40_blocking_primitive.md R143). -/
def State.releaseHandle (s : State) (p : Periph) : State :=
  s.setHandle p { phase := .idle, done := false, inten := false }

/-- `S.P.done <- true`, the agent's publication (20_memory.md R85). -/
def State.completeHandle (s : State) (p : Periph) : State := s.setHandle p { s.handle p with done := true }

/-- `P.wait()` (40_blocking_primitive.md R143): refused while Idle; held until `done`; then the three writes, the
processor Running, and the driver's result `finish`, which reads the state before the clears. `t` is the host's step
itself, taken again while it is held. -/
def waitOn (p : Periph) (t : Task) (finish : State → State → State) (s : State) : State :=
  if (s.handle p).phase = .active then
    if (s.handle p).done then finish s ((s.releaseHandle p).setMode .running) else s.hold t
  else s.refuse (.notActive p)

/-! ### Taking an interrupt and returning from it (60_exceptions.md R346 to R351) -/

/-- The line of a blocking peripheral: `done AND inten` (60_exceptions.md R346). -/
def irqLine (p : Periph) (s : State) : Bool := (s.handle p).done && (s.handle p).inten

/-- The radio's line: `ev.disabled AND inten` (44_radio.md R246). -/
def radioLine (s : State) : Bool := s.radio.ev.disabled && s.radio.inten

/-- One interrupt, entry to return, as one atomic step: while the line is high the handler runs. Entry saves nothing and
changes no mode (60_exceptions.md R349), return restores nothing (R351); while the line is low the IRQ agent has no step
(log 9). -/
def serviceIrq (line : Bool) (handler : State → State) (s : State) : State := if line then handler s else s

/-- The generic handler of 40_blocking_primitive.md R145: "`S.P.inten <- false`. Nothing else". -/
def genericHandler (p : Periph) (s : State) : State := s.setHandle p { s.handle p with inten := false }

/-! ### The radio's tasks (44_radio.md) -/

/-- The disable task (44_radio.md R245). -/
def disableTask (s : State) : State :=
  s.setRadio
    { s.radio with
      rxProg := none, txProg := none, state := .disabled, ev := { s.radio.ev with disabled := true } }

/-- The action chained to the end event, `RADIO_SHORT_DISABLE`: Disabled, and the event says so (44_radio.md R224, R229,
R238). -/
def shortDisable (s : State) : State :=
  s.setRadio { s.radio with state := .disabled, ev := { s.radio.ev with disabled := true } }

/-- What `RADIO_START_TX`, `RADIO_START_RX` and the receive handler's re-arm have in common: pointer, interrupt enable,
enable task (44_radio.md R222, R223, R247). -/
def armRadio (d : Direction) (s : State) : State :=
  s.setRadio { s.radio with pktptr := .toBuf, inten := true, dir := d, state := .ready }

/-- Take one entry out of the frames in the environment's hands (44_radio.md R230, log 18). -/
def State.dropFrame (s : State) (n : Nat) : State := s.setAir (s.air.eraseIdx n)

end Sys2Proof.Machine
end

