-- ==== Sys2Proof/Machine/Flags.lean ====
section
/-! DEFINITION. The block's flags: the eight radio event flags (10_state.md R37) and what they say of a reception. The
four completion flags are in `Handle` (10_state.md R24, R55). -/

namespace Sys2Proof.Machine

/-- Flag `k` in the order of 30_encoding.md R126; none above 7. -/
def Events.get? (ev : Events) : Nat → Option Bool
  | 0 => some ev.ready
  | 1 => some ev.address
  | 2 => some ev.addrmiss
  | 3 => some ev.payload
  | 4 => some ev.crcok
  | 5 => some ev.crcerror
  | 6 => some ev.ended
  | 7 => some ev.disabled
  | _ => none

/-- Write the flags. -/
def State.setEvents (s : State) (ev : Events) : State := s.setRadio { s.radio with ev := ev }

/-- A reception the handler calls good: "the payload was fully received with a valid CRC and address match"
(44_radio.md R247). -/
def Events.good (ev : Events) : Bool := ev.payload && ev.crcok && ev.address

/-- What the receive handler latches (44_radio.md R247). -/
def Events.latch (ev : Events) : RxLatch := if ev.good then .rxGood else .rxBad

/-- The flags after the end of a reception whose CRC check gave `crcOk`: payload, the CRC's flag, end (44_radio.md R238). -/
def Events.received (ev : Events) (crcOk : Bool) : Events :=
  { ev with
    payload := true, ended := true,
    crcok := if crcOk then true else ev.crcok,
    crcerror := if crcOk then ev.crcerror else true }

end Sys2Proof.Machine
end

