-- ==== Sys2Proof/Machine/Operands.lean ====
section
/-! DEFINITION. The operand forms: counts against a counter's width, I2C transactions, concatenated strings, payloads,
records and their types, frames and their CRC (30_encoding.md, 45_codec.md R273). -/

namespace Sys2Proof.Machine

/-- `n < 2^width` (41_timer_rtc.md R162, R169). Zero fits every width, and is answered without the width. -/
def fitsWidth (width n : Nat) : Bool := n == 0 || decide (n < 2 ^ width)

/-- `1 <= ticks < 2^TIMER_WIDTH` (41_timer_rtc.md R162). -/
def ticksOk (s : State) (ticks : BitVec 32) : Bool :=
  decide (1 ≤ ticks.toNat) && fitsWidth s.par.timerWidth ticks.toNat

/-- `compare < 2^RTC_WIDTH` (41_timer_rtc.md R169). -/
def compareOk (s : State) (compare : BitVec 32) : Bool := fitsWidth s.par.rtcWidth compare.toNat

/-- A counter's next value, `(counter + 1) mod 2^width` (41_timer_rtc.md R164, R171; 30_encoding.md R130). -/
def nextCount (width n : Nat) : Nat := (n + 1) % 2 ^ width

/-- The operands of a transaction (42_i2c.md R184). -/
def txnOk (addr : Byte) (wdata : List Byte) (rlen : Byte) : Bool :=
  decide (addr.toNat < 128) && decide (wdata.length ≤ 255) && decide (1 ≤ wdata.length + rlen.toNat)

/-- The byte strings of `RADIO_START_TX`, concatenated in order (44_radio.md R222). -/
def concatenated (strings : List (List Byte)) : List Byte := strings.flatten

/-- The length byte, `(total + 1) mod 256` (30_encoding.md R102). -/
def lengthByte (total : Nat) : Byte := BitVec.ofNat 8 (total + 1)

/-- The payload of the packet that stands in `BUF`, `BUF[1..L)` with `L = BUF[0]` (30_encoding.md R101, R104). -/
def packetBytes (s : State) : List Byte := s.memRead .buf 1 ((s.byteAt .buf 0).toNat - 1)

/-- The bytes of the current payload view: the pair is the one `RADIO_PAYLOAD` returned, the bytes are those `BUF` holds
now (20_memory.md R91, R84; 45_codec.md R281). With no view there are none (log 17). -/
def viewBytes (s : State) : List Byte :=
  match s.host.view with
  | none => []
  | some (offset, length) => s.memRead .buf offset length

/-- The payload operand of `CODEC_DECODE` (45_codec.md R281). -/
def payloadBytes (s : State) : Payload → List Byte
  | .view => viewBytes s
  | .inline bytes => bytes

/-! ### Records (45_codec.md R273) -/

/-- `TypeTable(t)`: the number of field bytes of type `t`, if the type exists (30_encoding.md R109). -/
def typeFields (tt : List (BitVec 15 × Nat)) (t : BitVec 15) : Option Nat :=
  match tt with
  | [] => none
  | (u, f) :: rest => if u = t then some f else typeFields rest t

/-- `R` is well typed iff `TypeTable(type) = some |fields|` (45_codec.md R273). -/
def wellTyped (s : State) (r : Record) : Bool := typeFields s.par.typeTable r.type == some r.fields.length

/-- The record of type `t` whose `F-REC` bytes are `p` (30_encoding.md R108). -/
def recordFrom (t : BitVec 15) (p : List Byte) : Record where
  type := t
  deviceId := BitVec.ofNat 64 (leNat (p.take 8))
  partId := BitVec.ofNat 32 (leNat ((p.drop 8).take 4))
  seq := BitVec.ofNat 32 (leNat ((p.drop 12).take 4))
  sensorId := BitVec.ofNat 16 (leNat ((p.drop 16).take 2))
  fields := p.drop 18

/-- `parse(t, P)` (45_codec.md R273). -/
def parse (tt : List (BitVec 15 × Nat)) (t : BitVec 15) (p : List Byte) : Option Record :=
  match typeFields tt t with
  | none => none
  | some f => if p.length = 18 + f then some (recordFrom t p) else none

/-- The nonce that is the first 8 of these bytes (45_codec.md R282). Its callers give at least 8. -/
def nonceOf (bs : List Byte) : Nonce := Vector.ofFn fun i : Fin 8 => bs.getD i.val 0x00#8

/-! ### Frames and their CRC (30_encoding.md R115 to R121) -/

/-- The 5 address bytes, prefix first (30_encoding.md R115, R117). -/
def Address.bytes (a : Address) : List Byte := a.pfx :: a.base.toList

/-- The bits of a byte in air order (30_encoding.md R120). -/
def airBits (order : BitOrder) (b : Byte) : List Bool :=
  match order with
  | .lsbFirst => [0, 1, 2, 3, 4, 5, 6, 7].map fun i => b.getLsbD i
  | .msbFirst => [7, 6, 5, 4, 3, 2, 1, 0].map fun i => b.getLsbD i

/-- One bit of the division (30_encoding.md R120). -/
def crcBit (poly reg : BitVec 24) (d : Bool) : BitVec 24 :=
  if (d ^^ reg.getLsbD 23) then (reg <<< 1) ^^^ poly else reg <<< 1

/-- `CRC24(covered)` (30_encoding.md R120), from `conf.crc_init` and `conf.crc_poly` (44_radio.md R239). -/
def crc24 (order : BitOrder) (poly init : BitVec 24) (covered : List Byte) : BitVec 24 :=
  (covered.flatMap (airBits order)).foldl (crcBit poly) init

/-- The covered bytes: the body, preceded by the address when `CRC_COVERS_ADDRESS` (30_encoding.md R120). -/
def covered (s : State) (a : Address) (body : List Byte) : List Byte :=
  if s.par.crcCoversAddress then Address.bytes a ++ body else body

/-- The CRC of a frame with this address and body, by this radio's configuration (44_radio.md R228, R239). -/
def frameCrc (s : State) (a : Address) (body : List Byte) : BitVec 24 :=
  crc24 s.par.bitOrder s.radio.conf.crcPoly s.radio.conf.crcInit (covered s a body)

/-- The body of a transmitted frame, `BUF[0 .. max(L, 1))` with `L = BUF[0]` (30_encoding.md R116). -/
def txBody (s : State) : List Byte := s.memRead .buf 0 (max (s.byteAt .buf 0).toNat 1)

/-- The frame captured when the radio enters Tx (44_radio.md R228). -/
def capturedFrame (s : State) : Frame where
  addr := s.radio.conf.addr
  body := txBody s
  crc := frameCrc s s.radio.conf.addr (txBody s)

/-- The CRC check of a received frame (44_radio.md R239). -/
def crcPasses (s : State) (f : Frame) : Bool := f.crc == frameCrc s f.addr f.body

/-- The radio is listening (44_radio.md R235). -/
def listening (s : State) : Bool := s.radio.state == .rx && s.radio.rxProg == none

end Sys2Proof.Machine
end

