-- ==== Sys2Proof/Machine/Rng.lean ====
section
/-! DEFINITION. The random-number generator interface (43_rng.md). -/

namespace Sys2Proof.Machine

/-- `RNG_START()` (43_rng.md R202). -/
def rngStart (s : State) : Except Misuse State :=
  if s.rng.hd.phase = .idle then .ok ((s.startHandle .rng).ok .unit) else .error (.notIdle .rng)

/-- `RNG_POLL()` (43_rng.md R206). -/
def rngPoll (s : State) : Except Misuse State :=
  if s.rng.hd.phase = .active then
    if s.rng.hd.done then .ok ((s.releaseHandle .rng).ok (.poll (some s.rng.value)))
    else .ok (s.ok (.poll none))
  else .error (.notActive .rng)

/-- The result of `RNG_WAIT` is the value before the clears, which leave it in place (43_rng.md R204). -/
def finishByte (s t : State) : State := t.ok (.byte s.rng.value)

/-- `RNG_PRODUCE` is enabled (43_rng.md R203). -/
def rngProduceEnabled (s : State) : Bool := s.rng.hd.phase == .active && !s.rng.hd.done

/-- The effect of `RNG_PRODUCE` with the draw `v` (43_rng.md R203). -/
def rngProduce (v : Byte) (s : State) : State := (s.setRng { s.rng with value := v }).completeHandle .rng

/-- `RNG_START()` (43_rng.md R202). -/
def execRngStart (s : State) : Out := .next (settle s (rngStart s))

/-- `RNG_WAIT()` (43_rng.md R204). -/
def execRngWait (s : State) : Out := .next (waitOn .rng (.op .rngWait) finishByte s)

/-- `RNG_POLL()` (43_rng.md R206). -/
def execRngPoll (s : State) : Out := .next (settle s (rngPoll s))

/-- `RNG_PRODUCE` (43_rng.md R203; log 8, log 9). -/
def execRngProduce (v : Byte) (s : State) : Out := .next (if rngProduceEnabled s then rngProduce v s else s)

/-- Draw `i` of `DRAW_NONCE` ends: `nonce[i] <- RNG_WAIT` (43_rng.md R207). -/
def finishNonceByte (i : Fin 8) (s t : State) : State := (t.setNonce (s.nonce.set i s.rng.value)).ok (.byte s.rng.value)

/-- The host steps of `DRAW_NONCE` after its first `RNG_START` (43_rng.md R207). -/
def nonceTasks : List Task :=
  [.nonceTake 0, .nonceStart, .nonceTake 1, .nonceStart, .nonceTake 2, .nonceStart, .nonceTake 3, .nonceStart,
   .nonceTake 4, .nonceStart, .nonceTake 5, .nonceStart, .nonceTake 6, .nonceStart, .nonceTake 7]

/-- `DRAW_NONCE` up to its first `RNG_START`, then `rest` (43_rng.md R207; log 15). -/
def drawNonce (rest : List Task) (s : State) : Except Misuse State :=
  match rngStart s with
  | .ok t => .ok (t.pushTasks (nonceTasks ++ rest))
  | .error why => .error why

/-- `DRAW_NONCE` (30_encoding.md R129, 43_rng.md R207; log 15). -/
def execDrawNonce (s : State) : Out := .next (settle s (drawNonce [] s))

end Sys2Proof.Machine
end

