-- ==== Sys2Proof/Machine/Codec.lean ====
section
/-! DEFINITION. The Secure Packet Codec (45_codec.md), for a construction `ae`; the machine uses `Config.ae`. -/

namespace Sys2Proof.Machine

/-- The `require` clauses of `CODEC_ENCODE_ENC`, then its first writes: `SIN` and the first draw of the nonce; `rest` is
what the host does when the nonce is drawn (45_codec.md R276, R277; log 15). -/
def encodeBegin (r : Record) (rest : List Task) (s : State) : Except Misuse State :=
  if wellTyped s r then
    if (ser r).length ≤ 240 then drawNonce rest (s.fillScratch .sin (ser r)) else .error .recordTooLong
  else .error .notWellTyped

/-- The strings of an encrypted packet: tag, nonce, ciphertext-and-tag (45_codec.md R276). -/
def encStrings (r : Record) (n : Nonce) (c : List Byte) : List (List Byte) := [leBytes 2 (encTag r.type), n.toList, c]

/-- Return the strings of an encode; the host keeps them as `pkt` (46_host_sequences.md R313). -/
def State.okStrings (s : State) (xs : List (List Byte)) : State :=
  (s.setHost { s.host with pkt := xs }).ok (.strings xs)

/-- The last step of `CODEC_ENCODE_ENC`: encrypt, fill `SOUT`, return (45_codec.md R276). -/
def encodeFinish (ae : AE) (r : Record) (s : State) : State :=
  (s.fillScratch .sout (ae.enc s.par.key s.nonce (ser r))).okStrings
    (encStrings r s.nonce (ae.enc s.par.key s.nonce (ser r)))

/-- `CODEC_ENCODE_PLAIN(R)` (45_codec.md R279). -/
def encodePlain (r : Record) (s : State) : Except Misuse State :=
  if wellTyped s r then
    if (ser r).length ≤ 252 then .ok (s.okStrings [leBytes 2 (plainTag r.type), ser r]) else .error .recordTooLong
  else .error .notWellTyped

/-- `case parse(t, P) of fail: raise Malformed; R: return ok(R)` (45_codec.md R287). -/
def interpret (t : BitVec 15) (p : List Byte) (s : State) : State :=
  match parse s.par.typeTable t p with
  | some r => s.ok (.record r)
  | none => s.raise .malformed

/-- `for j in 0..256: SOUT[j] <- 0x00` (45_codec.md R285). -/
def zeroSout (s : State) : State := s.memWrite .sout 0 (List.replicate 257 0x00#8)

/-- The outcome of the authenticated decryption: success fills `SOUT` and interprets, failure zeroes it (45_codec.md R284,
R285). -/
def decrypted (t : BitVec 15) (r : Option (List Byte)) (s : State) : State :=
  match r with
  | some p => interpret t p (s.fillScratch .sout p)
  | none => (zeroSout s).raise .authFail

/-- The ciphertext-and-tag of the content after the tag: after the nonce, clamped to 254 bytes (45_codec.md R282). -/
def cipherPart (content : List Byte) : List Byte := (content.drop 8).take (min (content.length - 8) 254)

/-- The encrypted branch on the bytes after the tag (45_codec.md R282 to R285). -/
def decodeEnc (ae : AE) (t : BitVec 15) (content : List Byte) (s : State) : State :=
  if content.length < 8 then s.raise .malformed
  else
    let u := s.setNonce (nonceOf content)
    let c := cipherPart content
    if c.length < 4 then u.raise .malformed
    else decrypted t (ae.dec u.par.key u.nonce c) (u.fillScratch .sin c)

/-- The plaintext branch on the bytes after the tag (45_codec.md R286). -/
def decodePlain (t : BitVec 15) (content : List Byte) (s : State) : State :=
  if s.par.acceptPlaintext then interpret t content s else s.raise .plaintextRejected

/-- `CODEC_DECODE(V)` (45_codec.md R281): the tag selects the branch (30_encoding.md R104). -/
def decodePayload (ae : AE) (v : List Byte) (s : State) : State :=
  match decodePacket v with
  | .ok (.pktEnc t content, _) => decodeEnc ae t content s
  | .ok (.pktPlain t content, _) => decodePlain t content s
  | _ => s.raise .malformed

/-- `CODEC_ENCODE_ENC(R)`, its first host step; the draws and `encodeFinish` follow (45_codec.md R276; log 15). -/
def execCodecEncodeEnc (r : Record) (s : State) : Out := .next (settle s (encodeBegin r [.encodeFinish r] s))

/-- `CODEC_ENCODE_PLAIN(R)` (45_codec.md R279). -/
def execCodecEncodePlain (r : Record) (s : State) : Out := .next (settle s (encodePlain r s))

/-- `CODEC_DECODE(V)` (45_codec.md R281). -/
def execCodecDecode (v : Payload) (s : State) : Out := .next (decodePayload Config.ae (payloadBytes s v) s)

/-- `PKT_PLAIN`: the decoder on a payload of the plaintext layout (30_encoding.md R105, 45_codec.md R286; log 13). -/
def execPktPlain (t : BitVec 15) (content : List Byte) (s : State) : Out := .next (decodePlain t content s)

/-- `PKT_ENC`: the decoder on a payload of the encrypted layout (30_encoding.md R106, 45_codec.md R282; log 13). -/
def execPktEnc (t : BitVec 15) (content : List Byte) (s : State) : Out := .next (decodeEnc Config.ae t content s)

/-- `CFGWORD`: the host reads the configuration word at boot and gets its four fields; no rule of the block reads them
(30_encoding.md R118, 70_reset_and_hazards.md R385; log 13). -/
def execCfgword (board major minor patch : Byte) (s : State) : Out := .next (s.ok (.config board major minor patch))

end Sys2Proof.Machine
end

