-- ==== Sys2Proof/Machine/I2c.lean ====
section
/-! DEFINITION. The blocking I2C transaction driver (42_i2c.md). -/

namespace Sys2Proof.Machine

/-- `I2C_ENABLE()` (42_i2c.md R182). -/
def i2cEnable (s : State) : Except Misuse State :=
  if s.i2c.hd.phase = .idle then .ok ((s.setI2c { s.i2c with enabled := true }).ok .unit) else .error (.notIdle .i2c)

/-- `I2C_DISABLE()` (42_i2c.md R183). -/
def i2cDisable (s : State) : Except Misuse State :=
  if s.i2c.hd.phase = .idle then .ok ((s.setI2c { s.i2c with enabled := false }).ok .unit) else .error (.notIdle .i2c)

/-- `I2C_START(addr, wdata, rlen)` (42_i2c.md R184). -/
def i2cStart (addr : Byte) (wdata : List Byte) (rlen : Byte) (s : State) : Except Misuse State :=
  if s.i2c.hd.phase = .idle then
    if s.i2c.enabled then
      if txnOk addr wdata rlen then
        .ok (((s.setI2c
            { s.i2c with
              txn := some { addr := addr.setWidth 7, wdata := wdata, rlen := rlen.toNat }, rdata := [],
              err := .noError }).startHandle .i2c).ok .unit)
      else .error .transactionOperands
    else .error .busDisabled
  else .error (.notIdle .i2c)

/-- The rest of `I2C_WAIT`: the transaction and its result are cleared, and the result or the failure, read before the
clears, is returned (42_i2c.md R188). -/
def finishI2c (s t : State) : State :=
  let u := t.setI2c { t.i2c with txn := none, rdata := [], err := .noError }
  match s.i2c.err with
  | .noError => u.ok (.bytes s.i2c.rdata)
  | .nack => u.raise .i2cNack
  | .bus => u.raise .i2cBus

/-- The oracle's answer fits the transaction: an acknowledged read brings exactly `rlen` bytes (42_i2c.md R186). -/
def answerFits (txn : Option Txn) : Answer → Bool
  | .ack rbytes =>
    match txn with
    | none => false
    | some x => rbytes.length == x.rlen
  | .nack => true
  | .busFault => true
  | .stall => true

/-- The results of a completed transaction; none for `Stall`, with which "the step is never enabled" (42_i2c.md R187). -/
def answerResult : Answer → Option (List Byte × BusError)
  | .ack rbytes => some (rbytes, .noError)
  | .nack => some ([], .nack)
  | .busFault => some ([], .bus)
  | .stall => none

/-- `I2C_COMPLETE` is enabled with this answer (42_i2c.md R186, R187). -/
def i2cCompleteEnabled (a : Answer) (s : State) : Bool :=
  s.i2c.hd.phase == .active && !s.i2c.hd.done && answerFits s.i2c.txn a && (answerResult a).isSome

/-- The effect of `I2C_COMPLETE` (42_i2c.md R187). -/
def i2cComplete (a : Answer) (s : State) : State :=
  match answerResult a with
  | some (rdata, err) => (s.setI2c { s.i2c with rdata := rdata, err := err }).completeHandle .i2c
  | none => s

/-- `I2C_ENABLE()` (42_i2c.md R182). -/
def execI2cEnable (s : State) : Out := .next (settle s (i2cEnable s))

/-- `I2C_DISABLE()` (42_i2c.md R183). -/
def execI2cDisable (s : State) : Out := .next (settle s (i2cDisable s))

/-- `I2C_START(addr, wdata, rlen)` (42_i2c.md R184). -/
def execI2cStart (addr : Byte) (wdata : List Byte) (rlen : Byte) (s : State) : Out :=
  .next (settle s (i2cStart addr wdata rlen s))

/-- `I2C_WAIT()` (42_i2c.md R188). -/
def execI2cWait (s : State) : Out := .next (waitOn .i2c (.op .i2cWait) finishI2c s)

/-- `I2C_COMPLETE` with the oracle's answer (42_i2c.md R187; log 8, log 9). -/
def execI2cComplete (a : Answer) (s : State) : Out := .next (if i2cCompleteEnabled a s then i2cComplete a s else s)

end Sys2Proof.Machine
end

