-- ==== Sys2Proof/Machine/Irq.lean ====
section
/-! DEFINITION. The interrupt handlers (60_exceptions.md section 2 and 3; 40_blocking_primitive.md R145; 44_radio.md
section 5). -/

namespace Sys2Proof.Machine

/-- The radio's transmit-side handler: `S.radio.inten <- false` (44_radio.md R232). -/
def radioTxHandler (s : State) : State := s.setRadio { s.radio with inten := false }

/-- An interrupt wakes the processor (44_radio.md R247). -/
def wake (s : State) : State := if s.mode = .sleeping then s.setMode .running else s

/-- The radio's receive-side handler: latch the outcome, clear all flags, re-arm always, wake (44_radio.md R247). -/
def radioRxHandler (s : State) : State :=
  wake (armRadio .rx (s.setRadio { s.radio with rxLatch := s.radio.ev.latch, ev := Events.clear }))

/-- `IRQ_TIMER` (41_timer_rtc.md R165). -/
def execIrqTimer (s : State) : Out := .next (serviceIrq (irqLine .timer s) (genericHandler .timer) s)

/-- `IRQ_RTC` (41_timer_rtc.md R173). -/
def execIrqRtc (s : State) : Out := .next (serviceIrq (irqLine .rtc s) (genericHandler .rtc) s)

/-- `IRQ_RNG` (43_rng.md R205). -/
def execIrqRng (s : State) : Out := .next (serviceIrq (irqLine .rng s) (genericHandler .rng) s)

/-- `IRQ_I2C` (42_i2c.md R189). -/
def execIrqI2c (s : State) : Out := .next (serviceIrq (irqLine .i2c s) (genericHandler .i2c) s)

/-- `IRQ_RADIO_TX`, enabled while the line is high and `cfg = TxCfg` (44_radio.md R232). -/
def execIrqRadioTx (s : State) : Out :=
  .next (serviceIrq (radioLine s && s.radio.cfg == .txCfg) radioTxHandler s)

/-- `IRQ_RADIO_RX`, enabled while the line is high and `cfg = RxCfg` (44_radio.md R247). -/
def execIrqRadioRx (s : State) : Out :=
  .next (serviceIrq (radioLine s && s.radio.cfg == .rxCfg) radioRxHandler s)

end Sys2Proof.Machine
end

