-- ==== Sys2Proof/Machine/Radio.lean ====
section
/-! DEFINITION. The Radio Link Layer, the host's side (44_radio.md sections 2, 3, 6) and the high-frequency clock boundary
(46_host_sequences.md section 3). -/

namespace Sys2Proof.Machine

/-- The generator without its leading term, `0x00065B` (30_encoding.md R119). -/
def crcPoly : BitVec 24 := 0x00065B#24

/-- The configuration both init operations write (44_radio.md R217). -/
def fixedConf (p : Params) : RadioConf where
  channel := p.channel
  addr := p.addr
  crcLen := 3
  crcPoly := crcPoly
  crcInit := p.crcInit
  rate := p.rate
  maxlen := 255

/-- `RADIO_INIT_TX` and `RADIO_INIT_RX`, identical but for the role (44_radio.md R217, R218). -/
def radioInit (c : RadioCfg) (s : State) : Except Misuse State :=
  if s.radio.state = .disabled then
    .ok ((s.setRadio
      { s.radio with conf := fixedConf s.par, shorts := { readyStart := true, endDisable := true }, cfg := c }).ok .unit)
  else .error .radioNotDisabled

/-- `RADIO_START_TX(fields)` (44_radio.md R222). -/
def radioStartTx (strings : List (List Byte)) (s : State) : Except Misuse State :=
  if s.radio.cfg = .txCfg then
    if s.radio.state = .disabled then
      if (concatenated strings).length ≤ 257 then
        .ok ((armRadio .tx
          (s.memWrite .buf 0 (lengthByte (concatenated strings).length :: concatenated strings))).ok .unit)
      else .error .tooManyBytes
    else .error .radioNotDisabled
  else .error .radioNotConfigured

/-- `RADIO_START_RX()` (44_radio.md R223). -/
def radioStartRx (s : State) : Except Misuse State :=
  if s.radio.cfg = .rxCfg then
    if s.radio.state = .disabled then .ok ((armRadio .rx s).ok .unit) else .error .radioNotDisabled
  else .error .radioNotConfigured

/-- The view `RADIO_PAYLOAD` returns for a length byte (44_radio.md R251). -/
def payloadView (l : Byte) : Option (Nat × Nat) := if l = 0x00#8 then none else some (1, l.toNat - 1)

/-- `RADIO_EVENT_READ(k)` (44_radio.md R249). -/
def radioEventRead (k : Byte) (s : State) : Except Misuse State :=
  match s.radio.ev.get? k.toNat with
  | some b => .ok (s.ok (.flag b))
  | none => .error .flagIndex

/-- `HFCLK_STOP()` (46_host_sequences.md R321). -/
def hfclkStop (s : State) : Except Misuse State :=
  if s.radio.state = .disabled then .ok ((s.setHfclk false).ok .unit) else .error .radioNotDisabled

/-- `RADIO_INIT_TX()` (44_radio.md R217). -/
def execRadioInitTx (s : State) : Out := .next (settle s (radioInit .txCfg s))

/-- `RADIO_INIT_RX()` (44_radio.md R218). -/
def execRadioInitRx (s : State) : Out := .next (settle s (radioInit .rxCfg s))

/-- `RADIO_START_TX(fields)` (44_radio.md R222). -/
def execRadioStartTx (strings : List (List Byte)) (s : State) : Out := .next (settle s (radioStartTx strings s))

/-- `RADIO_START_RX()` (44_radio.md R223). -/
def execRadioStartRx (s : State) : Out := .next (settle s (radioStartRx s))

/-- Return a view; it is the current one from here on (20_memory.md R91). -/
def State.okView (s : State) (v : Option (Nat × Nat)) : State := (s.setHost { s.host with view := v }).ok (.view v)

/-- `RADIO_PAYLOAD()` (44_radio.md R251). -/
def execRadioPayload (s : State) : Out := .next (s.okView (payloadView (s.byteAt .buf 0)))

/-- `RADIO_EVENT_READ(k)` (44_radio.md R249). -/
def execRadioEventRead (k : Byte) (s : State) : Out := .next (settle s (radioEventRead k s))

/-- `RADIO_EVENT_RESET_ALL()` (44_radio.md R250). -/
def execRadioEventResetAll (s : State) : Out := .next ((s.setEvents Events.clear).ok .unit)

/-- `RADIO_DISABLE()`: the enable bit is cleared first, then the disable task (44_radio.md R253). -/
def execRadioDisable (s : State) : Out := .next ((disableTask (s.setRadio { s.radio with inten := false })).ok .unit)

/-- `RADIO_TAKE_RX()` (44_radio.md R252). -/
def execRadioTakeRx (s : State) : Out :=
  .next ((s.setRadio { s.radio with rxLatch := .noRx }).ok (.reception s.radio.rxLatch s.radio.rssi))

/-- `HFCLK_START()` (46_host_sequences.md R320). -/
def execHfclkStart (s : State) : Out := .next ((s.setHfclk true).ok .unit)

/-- `HFCLK_STOP()` (46_host_sequences.md R321). -/
def execHfclkStop (s : State) : Out := .next (settle s (hfclkStop s))

end Sys2Proof.Machine
end

