-- ==== Sys2Proof/Machine/Timers.lean ====
section
/-! DEFINITION. The one-shot timer and the real-time counter (41_timer_rtc.md). -/

namespace Sys2Proof.Machine

/-- `TIMER_START(ticks)` (41_timer_rtc.md R162). -/
def timerStart (ticks : BitVec 32) (s : State) : Except Misuse State :=
  if s.timer.hd.phase = .idle then
    if ticksOk s ticks then
      .ok (((s.setTimer { s.timer with counter := 0, target := ticks.toNat, running := true }).startHandle .timer).ok
        .unit)
    else .error .ticksOutOfRange
  else .error (.notIdle .timer)

/-- `RTC_START(compare)` (41_timer_rtc.md R169). -/
def rtcStart (compare : BitVec 32) (s : State) : Except Misuse State :=
  if s.rtc.hd.phase = .idle then
    if compareOk s compare then
      .ok (((s.setRtc { s.rtc with counter := 0, compare := compare.toNat, running := true }).startHandle .rtc).ok
        .unit)
    else .error .compareOutOfRange
  else .error (.notIdle .rtc)

/-- The result of a `wait` that returns nothing. -/
def finishUnit (_ t : State) : State := t.ok .unit

/-- The effect of `TIMER_TICK` (41_timer_rtc.md R164). -/
def timerTick (s : State) : State :=
  let n := nextCount s.par.timerWidth s.timer.counter
  if n = s.timer.target then (s.setTimer { s.timer with counter := n, running := false }).completeHandle .timer
  else s.setTimer { s.timer with counter := n }

/-- The effect of `RTC_TICK`: it does not stop at the match, and a match counts only while Active (41_timer_rtc.md
R171). -/
def rtcTick (s : State) : State :=
  let n := nextCount s.par.rtcWidth s.rtc.counter
  let t := s.setRtc { s.rtc with counter := n }
  if n = s.rtc.compare ∧ s.rtc.hd.phase = .active then t.completeHandle .rtc else t

/-- `TIMER_START(ticks)` (41_timer_rtc.md R162). -/
def execTimerStart (ticks : BitVec 32) (s : State) : Out := .next (settle s (timerStart ticks s))

/-- `TIMER_WAIT()` (41_timer_rtc.md R163). -/
def execTimerWait (s : State) : Out := .next (waitOn .timer (.op .timerWait) finishUnit s)

/-- `RTC_START(compare)` (41_timer_rtc.md R169). -/
def execRtcStart (compare : BitVec 32) (s : State) : Out := .next (settle s (rtcStart compare s))

/-- `RTC_WAIT()`: `running` and `counter` stay (41_timer_rtc.md R170). -/
def execRtcWait (s : State) : Out := .next (waitOn .rtc (.op .rtcWait) finishUnit s)

/-- `TIMER_TICK`, enabled while the timer runs (41_timer_rtc.md R164; log 9). -/
def execTimerTick (s : State) : Out := .next (if s.timer.running then timerTick s else s)

/-- `RTC_TICK`, enabled while the counter runs (41_timer_rtc.md R171; log 9). -/
def execRtcTick (s : State) : Out := .next (if s.rtc.running then rtcTick s else s)

end Sys2Proof.Machine
end

