-- ==== Sys2Proof/Machine/Pseudo.lean ====
section
/-! DEFINITION. The pseudo-operations, each an abbreviation of a sequence of host steps (30_encoding.md R129). The first
operation of the sequence runs at once, the rest stands in the host's tasks (log 15). -/

namespace Sys2Proof.Machine

/-- `WAIT_TX_DONE`: `RADIO_EVENT_READ(7)`, and again while it returns false; a busy-wait, not a sleep
(46_host_sequences.md R319). -/
def waitTxDone (s : State) : State :=
  if s.radio.ev.disabled then s.ok (.flag true) else (s.pushTasks [.op .waitTxDone]).ok (.flag false)

/-- `P_START(args)` of `BLOCKING` (30_encoding.md R129). -/
def blockingStart (c : BlockingCall) (s : State) : Except Misuse State :=
  match c with
  | .timer ticks => timerStart ticks s
  | .rtc compare => rtcStart compare s
  | .i2c addr wdata rlen => i2cStart addr wdata rlen s
  | .rng => rngStart s

/-- `P_WAIT` of `BLOCKING` (30_encoding.md R129). -/
def blockingWait : BlockingCall → Instr
  | .timer _ => .timerWait
  | .rtc _ => .rtcWait
  | .i2c _ _ _ => .i2cWait
  | .rng => .rngWait

/-- `BLOCKING(P, args)` up to the end of its `start`. -/
def blockingBegin (c : BlockingCall) (s : State) : Except Misuse State :=
  match blockingStart c s with
  | .ok t => .ok (t.pushTasks [.op (blockingWait c)])
  | .error why => .error why

/-- What `SEND_ENCRYPTED` does after `CODEC_ENCODE_ENC` (30_encoding.md R129). -/
def sendTasks : List Task :=
  [.op .hfclkStart, .sendPacket, .op .waitTxDone, .op .radioDisable, .op .radioEventResetAll, .op .hfclkStop]

/-- `WAIT_RX`: the host sleeps until the latch is set (46_host_sequences.md R326). -/
def waitRx (s : State) : State :=
  if s.radio.rxLatch = .noRx then s.hold (.op .waitRx) else (s.setMode .running).ok .unit

/-- `WAIT_TX_DONE` (30_encoding.md R129, 46_host_sequences.md R319). -/
def execWaitTxDone (s : State) : Out := .next (waitTxDone s)

/-- `BLOCKING(P, args)` (30_encoding.md R129). -/
def execBlocking (c : BlockingCall) (s : State) : Out := .next (settle s (blockingBegin c s))

/-- `SEND_ENCRYPTED(R)` (30_encoding.md R129). -/
def execSendEncrypted (r : Record) (s : State) : Out :=
  .next (settle s (encodeBegin r (.encodeFinish r :: sendTasks) s))

/-- `WAIT_RX` (30_encoding.md R129, 46_host_sequences.md R326). -/
def execWaitRx (s : State) : Out := .next (waitRx s)

end Sys2Proof.Machine
end

