-- ==== Sys2Proof/Machine/RadioAgent.lean ====
section
/-! DEFINITION. The RADIO agent's steps, the two shortcuts, and the air (44_radio.md sections 4 and 1). -/

namespace Sys2Proof.Machine

/-- The start task, `RADIO_SHORT_START`: capture and Tx, or Rx with nothing in progress (44_radio.md R226, R228). -/
def startTask (s : State) : State :=
  match s.radio.dir with
  | .tx => s.setRadio { s.radio with txProg := some (capturedFrame s), state := .tx }
  | .rx => s.setRadio { s.radio with rxProg := none, state := .rx }

/-- `RADIO_RAMP` is enabled (44_radio.md R226, R221). -/
def rampEnabled (s : State) : Bool := s.radio.state == .ready && s.hfclk

/-- The effect of `RADIO_RAMP`: the ready event, then by the shortcut the start task (44_radio.md R226, R224). -/
def radioRamp (s : State) : State :=
  let t := s.setEvents { s.radio.ev with ready := true }
  if s.radio.shorts.readyStart then startTask t else t

/-- The end event's shortcut, when it is set (44_radio.md R224). -/
def chainDisable (s : State) : State := if s.radio.shorts.endDisable then shortDisable s else s

/-- The effect of `RADIO_TX_END`: the captured frame is emitted, the end event, the shortcut (44_radio.md R229). -/
def radioTxEnd (s : State) : State :=
  let t := s.setAir (s.air ++ s.radio.txProg.toList)
  chainDisable (t.setRadio { t.radio with txProg := none, ev := { t.radio.ev with ended := true } })

/-- ENV can offer `f`: the radio is listening and the body is as long as its length byte says (44_radio.md R235, R236,
R240). -/
def offerEnabled (f : Frame) (s : State) : Bool := listening s && bodyWf f.body

/-- The effect of `RADIO_RX_OFFER(f)` with the draw `rssi` (44_radio.md R236). -/
def rxOffer (f : Frame) (rssi : Rssi) (s : State) : State :=
  if f.addr = s.radio.conf.addr then
    s.setRadio { s.radio with ev := { s.radio.ev with address := true }, rssi := rssi, rxProg := some (f, 0) }
  else s.setEvents { s.radio.ev with addrmiss := true }

/-- The byte `RADIO_RX_STORE` stores next: the frame, the index and the byte (44_radio.md R237). -/
def storePending (s : State) : Option (Frame × Nat × Byte) :=
  if s.radio.state = .rx then
    match s.radio.rxProg with
    | none => none
    | some (f, i) =>
      match f.body[i]? with
      | none => none
      | some b => some (f, i, b)
  else none

/-- The frame `RADIO_RX_END` ends: all its body bytes are stored (44_radio.md R238). -/
def endPending (s : State) : Option Frame :=
  if s.radio.state = .rx then
    match s.radio.rxProg with
    | none => none
    | some (f, i) => if i = f.body.length then some f else none
  else none

/-- The effect of `RADIO_RX_END` for the frame `f`, with the drawn bytes past the body (44_radio.md R238). -/
def rxEnd (f : Frame) (tail : List Byte) (s : State) : State :=
  let t := s.memWrite .buf f.body.length tail
  chainDisable (t.setRadio { t.radio with rxProg := none, ev := t.radio.ev.received (crcPasses t f) })

/-- The drawn bytes are those of `BUF[|body| .. 258)` (44_radio.md R238). -/
def tailFits (f : Frame) (tail : List Byte) : Bool := tail.length == 258 - f.body.length

/-- `RADIO_RAMP` (44_radio.md R226; log 9). -/
def execRadioRamp (s : State) : Out := .next (if rampEnabled s then radioRamp s else s)

/-- `RADIO_TX_END`, enabled in Tx (44_radio.md R229; log 9). -/
def execRadioTxEnd (s : State) : Out := .next (if s.radio.state = .tx then radioTxEnd s else s)

/-- `RADIO_RX_OFFER(f)` (44_radio.md R236); "a frame offered to a radio that is not listening is lost with no trace"
(R235; log 8, log 9). -/
def execRadioRxOffer (f : Frame) (rssi : Rssi) (s : State) : Out :=
  .next (if offerEnabled f s then rxOffer f rssi s else s)

/-- `RADIO_RX_STORE` (44_radio.md R237; log 9, log 25). -/
def execRadioRxStore (s : State) : Out :=
  match storePending s with
  | none => .next s
  | some (f, i, b) =>
    if i < storeSize .buf then .next ((s.memWrite .buf i [b]).setRadio { s.radio with rxProg := some (f, i + 1) })
    else .fault (.outsideStore .buf i)

/-- `RADIO_RX_END` (44_radio.md R238; log 8, log 9). -/
def execRadioRxEnd (tail : List Byte) (s : State) : Out :=
  .next
    (match endPending s with
    | none => s
    | some f => if tailFits f tail then rxEnd f tail s else s)

/-- `RADIO_SHORT_START`: "with `shorts.ready_start` the ready event triggers the start task"; an internal part of
`RADIO_RAMP` (44_radio.md R224; log 14). -/
def execRadioShortStart (s : State) : Out :=
  .next (if rampEnabled s && s.radio.ev.ready && s.radio.shorts.readyStart then startTask s else s)

/-- A frame is on its way: the radio is in Tx or Rx (44_radio.md R215). -/
def onAir (s : State) : Bool := s.radio.state == .tx || s.radio.state == .rx

/-- `RADIO_SHORT_DISABLE`: "with `shorts.end_disable` the end event triggers the disable task"; an internal part of
`RADIO_TX_END` and `RADIO_RX_END` (44_radio.md R224; log 14). -/
def execRadioShortDisable (s : State) : Out := .next (if onAir s && s.radio.ev.ended then chainDisable s else s)

/-- The frame the `n`-th emitted frame becomes when ENV delivers it with this body and crc (44_radio.md R230). -/
def alteredFrame (f : Frame) (body : List Byte) (crc : BitVec 24) : Frame := { addr := f.addr, body := body, crc := crc }

/-- What a delivered frame does to this radio: an offer if it is listening, and nothing otherwise (44_radio.md R230,
R235). -/
def receiveFrame (f : Frame) (rssi : Rssi) (s : State) : State := if listening s then rxOffer f rssi s else s

/-- `ENV_AIR_DELIVER` (44_radio.md R230; log 9, log 18). -/
def execEnvAirDeliver (n : Nat) (body : List Byte) (crc : BitVec 24) (rssi : Rssi) (s : State) : Out :=
  .next
    (match s.air[n]? with
    | none => s
    | some f => if bodyWf body then receiveFrame (alteredFrame f body crc) rssi (s.dropFrame n) else s)

/-- `ENV_AIR_DROP` (44_radio.md R230; log 18). -/
def execEnvAirDrop (n : Nat) (s : State) : Out := .next (s.dropFrame n)

end Sys2Proof.Machine
end

