-- ==== Sys2Proof/Machine/Dispatch.lean ====
section
/-! DEFINITION. The meaning of each row of spec/opcode_table.json, one arm a constructor. -/

namespace Sys2Proof.Machine

/-- One operation, internal step, pseudo-operation or wire format at a state. -/
def exec (i : Instr) (s : State) : Host.Outcome State Fault Refusal :=
  match i with
  | .timerStart ticks => Sys2Proof.Machine.execTimerStart ticks s
  | .timerWait => Sys2Proof.Machine.execTimerWait s
  | .rtcStart compare => Sys2Proof.Machine.execRtcStart compare s
  | .rtcWait => Sys2Proof.Machine.execRtcWait s
  | .rngStart => Sys2Proof.Machine.execRngStart s
  | .rngWait => Sys2Proof.Machine.execRngWait s
  | .rngPoll => Sys2Proof.Machine.execRngPoll s
  | .i2cEnable => Sys2Proof.Machine.execI2cEnable s
  | .i2cDisable => Sys2Proof.Machine.execI2cDisable s
  | .i2cStart addr wdata rlen => Sys2Proof.Machine.execI2cStart addr wdata rlen s
  | .i2cWait => Sys2Proof.Machine.execI2cWait s
  | .radioInitTx => Sys2Proof.Machine.execRadioInitTx s
  | .radioInitRx => Sys2Proof.Machine.execRadioInitRx s
  | .radioStartTx strings => Sys2Proof.Machine.execRadioStartTx strings s
  | .radioStartRx => Sys2Proof.Machine.execRadioStartRx s
  | .radioPayload => Sys2Proof.Machine.execRadioPayload s
  | .radioEventRead k => Sys2Proof.Machine.execRadioEventRead k s
  | .radioEventResetAll => Sys2Proof.Machine.execRadioEventResetAll s
  | .radioDisable => Sys2Proof.Machine.execRadioDisable s
  | .radioTakeRx => Sys2Proof.Machine.execRadioTakeRx s
  | .codecEncodeEnc r => Sys2Proof.Machine.execCodecEncodeEnc r s
  | .codecEncodePlain r => Sys2Proof.Machine.execCodecEncodePlain r s
  | .codecDecode v => Sys2Proof.Machine.execCodecDecode v s
  | .hfclkStart => Sys2Proof.Machine.execHfclkStart s
  | .hfclkStop => Sys2Proof.Machine.execHfclkStop s
  | .timerTick => Sys2Proof.Machine.execTimerTick s
  | .rtcTick => Sys2Proof.Machine.execRtcTick s
  | .rngProduce v => Sys2Proof.Machine.execRngProduce v s
  | .i2cComplete a => Sys2Proof.Machine.execI2cComplete a s
  | .radioRamp => Sys2Proof.Machine.execRadioRamp s
  | .radioTxEnd => Sys2Proof.Machine.execRadioTxEnd s
  | .radioRxOffer f rssi => Sys2Proof.Machine.execRadioRxOffer f rssi s
  | .radioRxStore => Sys2Proof.Machine.execRadioRxStore s
  | .radioRxEnd tail => Sys2Proof.Machine.execRadioRxEnd tail s
  | .radioShortStart => Sys2Proof.Machine.execRadioShortStart s
  | .radioShortDisable => Sys2Proof.Machine.execRadioShortDisable s
  | .irqTimer => Sys2Proof.Machine.execIrqTimer s
  | .irqRtc => Sys2Proof.Machine.execIrqRtc s
  | .irqRng => Sys2Proof.Machine.execIrqRng s
  | .irqI2c => Sys2Proof.Machine.execIrqI2c s
  | .irqRadioTx => Sys2Proof.Machine.execIrqRadioTx s
  | .irqRadioRx => Sys2Proof.Machine.execIrqRadioRx s
  | .envAirDeliver n body crc rssi => Sys2Proof.Machine.execEnvAirDeliver n body crc rssi s
  | .envAirDrop n => Sys2Proof.Machine.execEnvAirDrop n s
  | .waitTxDone => Sys2Proof.Machine.execWaitTxDone s
  | .blocking c => Sys2Proof.Machine.execBlocking c s
  | .drawNonce => Sys2Proof.Machine.execDrawNonce s
  | .sendEncrypted r => Sys2Proof.Machine.execSendEncrypted r s
  | .waitRx => Sys2Proof.Machine.execWaitRx s
  | .pktPlain t content => Sys2Proof.Machine.execPktPlain t content s
  | .pktEnc t content => Sys2Proof.Machine.execPktEnc t content s
  | .cfgword board major minor patch => Sys2Proof.Machine.execCfgword board major minor patch s

end Sys2Proof.Machine
end

