-- ==== Sys2Proof/Machine/HostTasks.lean ====
section
/-! DEFINITION. The host's steps: the parts of a composite operation, the host's reference sequences of
46_host_sequences.md as lists of such steps, and how the host issues its next operation. -/

namespace Sys2Proof.Machine

/-- Replace what the host has still to do. -/
def State.setTasks (s : State) (ts : List Task) : State := s.setHost { s.host with todo := ts }

/-! ### The sensor node (46_host_sequences.md R313) -/

/-- One sensor read: the transaction, the sensor driver's own report, and the host's reaction to a failure of either
(46_host_sequences.md R313, R315). -/
def readTasks (x : SensorRead) : List Task :=
  [.op (.i2cStart x.addr x.wdata x.rlen), .op .i2cWait, .haltOnFailure, .sensorReport x.report, .haltOnFailure]

/-- The node from power-on: the configuration word is read, then role set-up, once, then the loop
(70_reset_and_hazards.md R383, R386). -/
def nodeSetup : List Task := [.bootRead, .op .radioInitTx, .nodeLoop]

/-- The node's loop, from its top to the enabling of the bus (46_host_sequences.md R313). -/
def nodeWake (p : Params) : List Task := [.op (.rtcStart p.rtcPeriod), .op .rtcWait, .op .i2cEnable, .nodeSample]

/-- The rest of the pass, and the loop again (46_host_sequences.md R313). -/
def nodePass (c : CycleInputs) : List Task :=
  c.reads.flatMap readTasks
    ++ [.op .i2cDisable, .battery c.battery, .assemble c.type c.sensorId c.fields, .encodeRecord, .op .hfclkStart,
        .sendPacket, .op .waitTxDone, .op .radioDisable, .op .radioEventResetAll, .op .hfclkStop, .nodeLoop]

/-! ### The gateway (46_host_sequences.md R325) -/

/-- The gateway from power-on: the configuration word is read, then role set-up in this order, then the loop
(70_reset_and_hazards.md R383, R387). -/
def gatewaySetup : List Task :=
  [.bootRead, .op .radioInitRx, .op .hfclkStart, .op .radioEventResetAll, .op .radioStartRx, .gatewayLoop]

/-- One pass of the gateway's loop (46_host_sequences.md R325). -/
def gatewayPass : List Task := [.op .waitRx, .op .radioTakeRx, .gatewayCheck, .gatewayLoop]

/-! ### The host's own steps -/

/-- Is this failure unhandled by the reference host, so that it halts the device (46_host_sequences.md R315)? The decode
failures are fatal to the packet only (R328). -/
def Failure.halts : Failure → Bool
  | .i2cNack => true
  | .i2cBus => true
  | .authFail => false
  | .malformed => false
  | .plaintextRejected => false
  | .sensorTimeout => true
  | .sensorCrc => true

/-- The code of a failure (60_exceptions.md R341). -/
def Failure.code : Failure → Nat
  | .i2cNack => 1
  | .i2cBus => 2
  | .authFail => 3
  | .malformed => 4
  | .plaintextRejected => 5
  | .sensorTimeout => 6
  | .sensorCrc => 7

/-- `S.cpu.mode <- Halted` on an unhandled failure (46_host_sequences.md R315). -/
def haltOnFailure (s : State) : State :=
  match s.host.result with
  | .err e => if e.halts then s.setMode .halted else s
  | _ => s

/-- A sensor driver's report (60_exceptions.md R341, raised outside the block). -/
def sensorReport (f : Option SensorFault) (s : State) : State :=
  match f with
  | none => s.ok .unit
  | some .timeout => s.raise .sensorTimeout
  | some .crc => s.raise .sensorCrc

/-- Below the threshold the host enters the fail-dead loop and drops everything else (46_host_sequences.md R316, R317). -/
def battery (v : Nat) (s : State) : State := if v < s.par.lowBatt then s.setTasks [.lowBattery] else s

/-- The record carries the device's constant identity and the current sequence index, which is then incremented modulo
2^32 (46_host_sequences.md R318). -/
def assemble (t : BitVec 15) (sensorId : BitVec 16) (fields : List Byte) (s : State) : State :=
  let r : Record :=
    { type := t, deviceId := s.par.deviceId, partId := s.par.partId, seq := s.seq, sensorId := sensorId, fields := fields }
  (s.setSeq (s.seq + 1)).setHost { s.host with record := some r, result := .ok (.record r) }

/-- `CODEC_ENCODE_ENC(R)`, or `CODEC_ENCODE_PLAIN` in development builds (46_host_sequences.md R313, 45_codec.md R279). -/
def encodeRecord (s : State) : Out :=
  match s.host.record with
  | none => .next (s.refuse .noRecord)
  | some r => if s.par.secureBuild then exec (.codecEncodeEnc r) s else exec (.codecEncodePlain r) s

/-- The gateway: a good reception is looked at, a bad one needs nothing (46_host_sequences.md R325). -/
def gatewayCheck (s : State) : State :=
  match s.host.result with
  | .ok (.reception .rxGood rssi) =>
    (s.setHost { s.host with rssi := rssi }).pushTasks [.op .radioPayload, .gatewayView]
  | _ => s

/-- The inputs of the node's next pass and the host's side without them: the next ones that were supplied, else a draw
(log 28, log 31). -/
def nextInputs (h : HostSide) : CycleInputs × HostSide :=
  match h.inputs with
  | [] => (Config.passInputs h.passes, { h with passes := h.passes + 1 })
  | c :: cs => (c, { h with inputs := cs })

/-- The node takes the inputs of its next pass and goes on with the pass (46_host_sequences.md R313). -/
def nodeSample (s : State) : State :=
  let next := nextInputs s.host
  (s.setHost next.2).pushTasks (nodePass next.1)

/-- The gateway: a payload is decoded through the view `RADIO_PAYLOAD` returned, which is the current one; a zero-length
packet is not (46_host_sequences.md R325, 20_memory.md R91). -/
def gatewayView (s : State) : State :=
  match s.host.result with
  | .ok (.view (some _)) => s.pushTasks [.op (.codecDecode .view), .gatewayForward]
  | _ => s

/-- What is forwarded of a decoded record (45_codec.md R288). -/
def forwardedOf (r : Record) (rssi : Rssi) : Forwarded where
  deviceId := r.deviceId
  seq := r.seq
  sensorId := r.sensorId
  fields := r.fields
  rssi := rssi

/-- The gateway: a decoded record is forwarded with the signal strength, a failed packet is discarded
(46_host_sequences.md R325, R328). -/
def gatewayForward (s : State) : State :=
  match s.host.result with
  | .ok (.record r) =>
    s.setHost { s.host with forwarded := s.host.forwarded ++ [forwardedOf r s.host.rssi] }
  | _ => s

/-- One host step that is still to be taken. -/
def runTask (t : Task) (s : State) : Out :=
  match t with
  | .op i => exec i s
  | .nonceStart => .next (settle s (rngStart s))
  | .nonceTake i => .next (waitOn .rng (.nonceTake i) (finishNonceByte i) s)
  | .encodeFinish r => .next (encodeFinish Config.ae r s)
  | .bootRead => exec (decodeConfig s.par.cfgword) s
  | .sendPacket => exec (.radioStartTx s.host.pkt) s
  | .haltOnFailure => .next (haltOnFailure s)
  | .sensorReport f => .next (sensorReport f s)
  | .battery v => .next (battery v s)
  | .assemble t x f => .next (assemble t x f s)
  | .encodeRecord => encodeRecord s
  | .nodeLoop => .next (s.pushTasks (nodeWake s.par))
  | .nodeSample => .next (nodeSample s)
  | .lowBattery => .next (s.pushTasks [.op (.rtcStart s.par.rtcPeriod), .op .rtcWait, .lowBattery])
  | .gatewayCheck => .next (gatewayCheck s)
  | .gatewayView => .next (gatewayView s)
  | .gatewayForward => .next (gatewayForward s)
  | .gatewayLoop => .next (s.pushTasks gatewayPass)

/-! ### Issuing the next operation -/

/-- The bits a host word stands for: operation words as they are, the payload in `BUF`, the configuration word. -/
def codedWord (s : State) : HostWord → Coded
  | .call bytes => .op bytes
  | .packet => .packet (packetBytes s)
  | .bootRead => .config s.par.cfgword

/-- What is left of the host's words when `rest` is left of the first (log 27). -/
def remainingWords (rest : List Byte) (ws : List HostWord) : List HostWord :=
  match rest with
  | [] => ws
  | b :: bs => .call (b :: bs) :: ws

/-- What fetching the next operation gives. -/
inductive Fetched
  /-- the host has no operation to issue -/
  | nothing
  /-- the instruction, and the host's words after it -/
  | instr (i : Instr) (words : List HostWord)
  /-- the word is no operation; the words after it -/
  | reject (e : DecodeError) (words : List HostWord)
deriving DecidableEq, Repr

/-- Read the host's next operation. -/
def fetch (s : State) : Fetched :=
  match s.host.words with
  | [] => .nothing
  | w :: ws =>
    match decode (codedWord s w) with
    | .ok (i, rest) => .instr i (remainingWords rest ws)
    | .error e => .reject e ws

/-- The state in which the fetched operation runs: its word is taken from the host's words. -/
def State.setWords (s : State) (ws : List HostWord) : State := s.setHost { s.host with words := ws }

/-- A word that is no operation is refused and dropped (30_encoding.md R125, 00_scope.md R18; log 10); a payload with no
complete tag is `Malformed` (30_encoding.md R123(b)). A payload of no bytes because `BUF[0] = 0`, of which R123(a) says only
that "nothing is decoded", is `Malformed` too: DESIGN CHOICE (log 13). -/
def rejectWord (e : DecodeError) (s : State) : State :=
  match e with
  | .noTag => s.raise .malformed
  | .unknownOperation op => s.refuse (.notAnOperation (.unknownOperation op))
  | .truncated => s.refuse (.notAnOperation .truncated)
  | .typeBit15 => s.refuse (.notAnOperation .typeBit15)
  | .payloadSelector sel => s.refuse (.notAnOperation (.payloadSelector sel))

/-- Issue the next operation, or idle if there is none. -/
def issue (s : State) : Out :=
  match fetch s with
  | .nothing => .next s
  | .instr i ws => exec i (s.setWords ws)
  | .reject e ws => .next (rejectWord e (s.setWords ws))

/-- The host's turn: once Halted "no host step is enabled ever again" (10_state.md R50; log 24); otherwise the operation
it is inside goes on, or the next one is issued. -/
def hostTurn (s : State) : Out :=
  if s.mode = .halted then .next s
  else
    match s.host.todo with
    | t :: ts => runTask t (s.setTasks ts)
    | [] => issue s

/-- An agent's turn: the internal step the agenda names (00_scope.md R15; log 1, log 26). -/
def agentTurn (i : Instr) (s : State) : Out :=
  match i.agent with
  | none => .refused .notAnAgentStep
  | some .host => .refused .notAnAgentStep
  | some .irq => exec i s
  | some .timer => exec i s
  | some .rtc => exec i s
  | some .rng => exec i s
  | some .i2c => exec i s
  | some .radio => exec i s
  | some .env => exec i s

/-! ### Loading a word from outside (log 2) -/

/-- `BUF` with a payload placed in it: the length byte counts itself (30_encoding.md R101). -/
def State.withPayload (s : State) (payload : List Byte) : State :=
  s.memWrite .buf 0 (lengthByte payload.length :: payload)

/-- Place a table word where the host's next fetch reads it: a packet in `BUF`, the configuration word in its store, an
operation word in the host's words. -/
def State.placeWord (s : State) (nbits w : Nat) : State :=
  match tableWord nbits w with
  | .packet payload => (s.withPayload payload).setWords [.packet]
  | .config word => (s.setPar { s.par with cfgword := word }).setWords [.bootRead]
  | .op bytes => s.setWords [.call bytes]

end Sys2Proof.Machine
end

