-- ==== Sys2Proof/Machine/Step.lean ====
section
/-! DEFINITION. One step of the machine: the turn at the head of the agenda (00_scope.md R15). -/

namespace Sys2Proof.Machine

/-- One turn: the host's step or an agent's. With no turn nobody moves (log 1). -/
def step (s : State) : Host.Outcome State Fault Refusal :=
  match s.turns with
  | [] => .next s
  | .host :: ts => hostTurn (s.setTurns ts)
  | .agent i :: ts => agentTurn i (s.setTurns ts)

/-- `s` with a table word placed where the next step fetches: the word stands in `placeWord`'s place, the host is inside
no other operation, not Halted, and has the next turn (log 2). -/
def State.withFetchWord (s : State) (nbits w : Nat) : State :=
  (((s.placeWord nbits w).setTasks []).setMode .running).setTurns (.host :: s.turns)

end Sys2Proof.Machine
end

