-- ==== Sys2Proof/Safety.lean ====
section
/-! DEFINITION. What claims about runs speak of: a run without a refused operation, the invariants the rules keep, a run
of the node and of the gateway, which steps are enabled, and weak fairness. -/

namespace Sys2Proof

open Sys2Proof.Machine

/-- A run is safe while no operation of it was refused: "A claim about a run must take `S.refused = false` as a premise"
(10_state.md R54). -/
def Safe (s : State) : Prop := s.refused = false

/-- The three byte stores are in canonical form (20_memory.md R70, R78). -/
def StoresWf (s : State) : Prop :=
  Memory.wf 258 s.buf = true ∧ Memory.wf 257 s.sin = true ∧ Memory.wf 257 s.sout = true

/-- 10_state.md R58, blocking peripherals: `phase = Idle` implies `done = false` and `inten = false`. -/
def HandleInv (h : Handle) : Prop := h.phase = .idle → h.done = false ∧ h.inten = false

/-- The four handles keep 10_state.md R58; a running timer is Active and not done (41_timer_rtc.md R162, R164), and an
Active transaction is recorded while an Idle driver has none (42_i2c.md R184, R188). -/
def HandlesInv (s : State) : Prop :=
  (∀ p, HandleInv (s.handle p)) ∧
    (s.timer.running = true → s.timer.hd.phase = .active ∧ s.timer.hd.done = false) ∧
    (s.i2c.hd.phase = .active ↔ s.i2c.txn.isSome = true)

/-- The counters and their targets fit their widths (10_state.md R26, R27). -/
def CountersInv (s : State) : Prop :=
  s.timer.counter < 2 ^ s.par.timerWidth ∧ s.timer.target < 2 ^ s.par.timerWidth ∧
    s.rtc.counter < 2 ^ s.par.rtcWidth ∧ s.rtc.compare < 2 ^ s.par.rtcWidth

/-- 10_state.md R58 for the radio, with what makes it inductive: a radio that is not Disabled is configured for its
direction, its pointer is armed, and a configured radio has the fixed configuration and both shortcuts (44_radio.md R217,
R222, R223, R256). -/
def RadioInv (s : State) : Prop :=
  (s.radio.state = .tx → s.radio.cfg = .txCfg ∧ s.radio.pktptr = .toBuf) ∧
    (s.radio.state = .rx → s.radio.cfg = .rxCfg ∧ s.radio.pktptr = .toBuf) ∧
    (s.radio.state = .ready →
      s.radio.pktptr = .toBuf ∧ (s.radio.dir = .tx → s.radio.cfg = .txCfg) ∧ (s.radio.dir = .rx → s.radio.cfg = .rxCfg)) ∧
    (s.radio.cfg ≠ .noCfg →
      s.radio.shorts = { readyStart := true, endDisable := true } ∧ s.radio.conf = fixedConf s.par)

/-- The frames in flight: a body being stored is as long as its length byte says and its index is inside it (44_radio.md
R237, R240); a captured or emitted body is as long as its length byte says (30_encoding.md R116). -/
def FramesInv (s : State) : Prop :=
  (∀ f i, s.radio.rxProg = some (f, i) → bodyWf f.body = true ∧ i ≤ f.body.length) ∧
    (∀ f, s.radio.txProg = some f → bodyWf f.body = true) ∧ (∀ f ∈ s.air, bodyWf f.body = true)

/-- An encode that is under way passed its length check (45_codec.md R276, R277). -/
def TasksInv (s : State) : Prop := ∀ r, Task.encodeFinish r ∈ s.host.todo → (ser r).length ≤ 240

/-- The current payload view lies inside `BUF` (44_radio.md R251, 20_memory.md R78, R91). -/
def ViewInv (s : State) : Prop := ∀ offset length, s.host.view = some (offset, length) → offset + length ≤ 258

/-- The invariant of every reachable state: 10_state.md R58 and what makes it inductive. -/
def Inv (s : State) : Prop :=
  StoresWf s ∧ HandlesInv s ∧ CountersInv s ∧ RadioInv s ∧ FramesInv s ∧ TasksInv s ∧ ViewInv s

/-! ### Runs (46_host_sequences.md R330) -/

/-- The host is at the top of the node's loop: its next operation is `RTC_START`. -/
def AtNodeLoop (s : State) : Prop := ∃ rest, s.host.todo = .nodeLoop :: rest

/-- `RTC_WAIT` has returned to the node's loop: the host's next operation is `I2C_ENABLE` of the pass. -/
def NodeAwake (s : State) : Prop := ∃ rest, s.host.todo = .op .i2cEnable :: .nodeSample :: rest

/-- The host is at the top of the gateway's loop. -/
def AtGatewayLoop (s : State) : Prop := ∃ rest, s.host.todo = .gatewayLoop :: rest

/-- `k` steps lead through one pass, from `s` to `t`. The host stays where the pass begins for the first `m` states, in
which only agents move; with the next step it leaves, and `t` is the first state after that which ends a pass. A step of an
agent, or a turn nobody takes, is therefore never a pass, also where a pass ends where it begins. -/
def Pass (begins ends : State → Prop) (k : Nat) (s t : State) : Prop :=
  Host.Core.run Sys2Proof.core k s = .next t ∧ ends t ∧
    ∃ m, 0 < m ∧ m < k ∧ (∀ j u, j < m → Host.Core.run Sys2Proof.core j s = .next u → begins u) ∧
      ∀ j u, m ≤ j → j < k → Host.Core.run Sys2Proof.core j s = .next u → ¬ begins u ∧ ¬ ends u

/-- A final state of a run of the node: the pass is over and the next `RTC_START` is about to be issued. A processor that
is Halted, a held wait and the low-battery loop are not at the top of the loop or not Running. -/
def FinalNode (s : State) : Prop :=
  AtNodeLoop s ∧ (∀ p, (s.handle p).phase = .idle) ∧ s.radio.state = .disabled ∧ s.hfclk = false ∧
    s.i2c.enabled = false ∧ s.refused = false ∧ s.mode = .running

/-- A run of the node: one pass, from `RTC_WAIT` returning to the next `RTC_START` being issued, that ends in a final
state. -/
def NodeRun (k : Nat) (s t : State) : Prop := Pass NodeAwake AtNodeLoop k s t ∧ FinalNode t

/-- A run of the gateway: one pass of its loop, from its top and back to it. -/
def GatewayRun (k : Nat) (s t : State) : Prop := Pass AtGatewayLoop AtGatewayLoop k s t

/-! ### Enabled steps -/

/-- The wait of `p` would be held (40_blocking_primitive.md R143). -/
def waitHeld (p : Periph) (s : State) : Bool := (s.handle p).phase == .active && !(s.handle p).done

/-- The host is held in `i` (00_scope.md R18: "the host has no step until the stated condition is made true"). -/
def heldInstr : Instr → State → Bool
  | .timerWait, s => waitHeld .timer s
  | .rtcWait, s => waitHeld .rtc s
  | .rngWait, s => waitHeld .rng s
  | .i2cWait, s => waitHeld .i2c s
  | .waitRx, s => s.radio.rxLatch == .noRx
  | _, _ => false

/-- The host is held in this step of a composite operation or a program. -/
def heldTask : Task → State → Bool
  | .op i, s => heldInstr i s
  | .nonceTake _, s => waitHeld .rng s
  | _, _ => false

/-- The host has a step that is not held: it is not Halted and goes on with an operation, or issues one. -/
def hostEnabled (s : State) : Bool :=
  s.mode != .halted &&
    match s.host.todo with
    | t :: _ => !heldTask t s
    | [] =>
      match fetch s with
      | .nothing => false
      | .instr i _ => !heldInstr i s
      | .reject _ _ => true

/-- The condition under which a step is enabled: an internal step's own, and for a host operation that the host is not
Halted and would not be held in it; an internal part is no step (30_encoding.md R127). -/
def enabled : Instr → State → Bool
  | .timerTick, s => s.timer.running
  | .rtcTick, s => s.rtc.running
  | .rngProduce _, s => rngProduceEnabled s
  | .i2cComplete a, s => i2cCompleteEnabled a s
  | .radioRamp, s => rampEnabled s
  | .radioTxEnd, s => s.radio.state == .tx
  | .radioRxOffer f _, s => offerEnabled f s
  | .radioRxStore, s => (storePending s).isSome
  | .radioRxEnd tail, s => (endPending s).any fun f => tailFits f tail
  | .irqTimer, s => irqLine .timer s
  | .irqRtc, s => irqLine .rtc s
  | .irqRng, s => irqLine .rng s
  | .irqI2c, s => irqLine .i2c s
  | .irqRadioTx, s => radioLine s && s.radio.cfg == .txCfg
  | .irqRadioRx, s => radioLine s && s.radio.cfg == .rxCfg
  | .envAirDeliver n body _ _, s => (s.air[n]?).isSome && bodyWf body
  | .envAirDrop n, s => (s.air[n]?).isSome
  | .radioShortStart, _ => false
  | .radioShortDisable, _ => false
  | i, s => s.mode != .halted && !heldInstr i s

/-- The step a turn names is enabled. -/
def turnEnabled : Turn → State → Bool
  | .host, s => hostEnabled s
  | .agent i, s => enabled i s

/-! ### Weak fairness (70_reset_and_hazards.md R411) -/

/-- The steps assumed weakly fair, a draw left open: the agents' steps of the rule's list, every handler, and the host's. -/
inductive FairStep
  | host | timerTick | rtcTick | rngProduce | radioRamp | radioTxEnd | radioRxStore | radioRxEnd
  | irqTimer | irqRtc | irqRng | irqI2c | irqRadioTx | irqRadioRx
deriving DecidableEq, Repr

/-- The fair step an instruction is, if any: not `I2C_COMPLETE`, `RADIO_RX_OFFER`, `ENV_AIR_DELIVER` ("**Not**
assumed"), and not `ENV_AIR_DROP` nor an internal part, of which the rule says nothing. -/
def fairStep (i : Instr) : Option FairStep :=
  match i with
  | .timerTick => some .timerTick
  | .rtcTick => some .rtcTick
  | .rngProduce _ => some .rngProduce
  | .i2cComplete _ => none
  | .radioRamp => some .radioRamp
  | .radioTxEnd => some .radioTxEnd
  | .radioRxOffer _ _ => none
  | .radioRxStore => some .radioRxStore
  | .radioRxEnd _ => some .radioRxEnd
  | .radioShortStart => none
  | .radioShortDisable => none
  | .irqTimer => some .irqTimer
  | .irqRtc => some .irqRtc
  | .irqRng => some .irqRng
  | .irqI2c => some .irqI2c
  | .irqRadioTx => some .irqRadioTx
  | .irqRadioRx => some .irqRadioRx
  | .envAirDeliver _ _ _ _ => none
  | .envAirDrop _ => none
  | _ => some .host

/-- The fair step a turn takes, if any. -/
def Machine.Turn.fairStep : Turn → Option FairStep
  | .host => some .host
  | .agent i => Sys2Proof.fairStep i

/-- The steps assumed weakly fair, a host operation among them while it is not held (`enabled`). -/
def weaklyFair (i : Instr) : Bool := (fairStep i).isSome

/-- A fair step is enabled, with some draw. -/
def FairStep.enabled : FairStep → State → Bool
  | .host, s => hostEnabled s
  | .timerTick, s => s.timer.running
  | .rtcTick, s => s.rtc.running
  | .rngProduce, s => rngProduceEnabled s
  | .radioRamp, s => rampEnabled s
  | .radioTxEnd, s => s.radio.state == .tx
  | .radioRxStore, s => (storePending s).isSome
  | .radioRxEnd, s => (endPending s).isSome
  | .irqTimer, s => irqLine .timer s
  | .irqRtc, s => irqLine .rtc s
  | .irqRng, s => irqLine .rng s
  | .irqI2c, s => irqLine .i2c s
  | .irqRadioTx, s => radioLine s && s.radio.cfg == .txCfg
  | .irqRadioRx, s => radioLine s && s.radio.cfg == .rxCfg

/-- An infinite run: at every point the machine takes the named turn (log 22). -/
def Execution (σ : Nat → State) (τ : Nat → Turn) : Prop :=
  ∀ n, step ((σ n).setTurns [τ n]) = .next (σ (n + 1))

/-- Weak fairness: "if continuously enabled, eventually taken". The step does not enforce it: a liveness claim takes it as
a premise on its run (log 22). -/
def WeaklyFair (σ : Nat → State) (τ : Nat → Turn) : Prop :=
  ∀ (f : FairStep) (n : Nat), (∀ m, n ≤ m → f.enabled (σ m) = true) →
    ∃ m, n ≤ m ∧ (τ m).fairStep = some f ∧ turnEnabled (τ m) (σ m) = true

/-- The named hypothesis of 45_codec.md R272: what decrypts was produced. Nothing in the model assumes it; a claim that
needs it takes it as a premise. -/
def AE.Unforgeable (ae : AE) (k : Key) (produced : Nonce → List Byte → Prop) : Prop :=
  ∀ n c, (ae.dec k n c).isSome = true → produced n c

end Sys2Proof
end

