-- ==== Sys2Proof/Certificates/Slice0/Obligations.lean ====
section
/-! DEFINITION. The statements for the provers. Where a statement says `t = { s with … }`, everything it does not name is
unchanged; a store that is named is then described byte by byte. A refused operation is `refused := true` and the model's
record of it (00_scope.md R18, log 10). `turns`, `host` and `air` are the model's own fields (log 1, log 11, log 18). -/

open Sys2Proof Sys2Proof.Machine

/-! ### Encodings -/

/-- Decode and encode agree: every well-formed operation word, with anything after it, every packet and every
configuration word reads back as the instruction it encodes (30_encoding.md R126, R103, R118). -/
def Obligations.EncodedInstructionsDecodeToThemselves : Prop :=
  ∀ i : Instr, i.wf = true →
    (∀ bytes rest, encode i = some (.op bytes) → decodeOp (bytes ++ rest) = .ok (i, rest)) ∧
      (∀ payload, encode i = some (.packet payload) → decodePacket payload = .ok (i, [])) ∧
        (∀ w, encode i = some (.config w) → decodeConfig w = i)

/-- No two operation words, and no two payloads, mean the same: what decodes encodes back to the bytes read
(30_encoding.md R126, R103). -/
def Obligations.DecodedBytesEncodeBack : Prop :=
  (∀ bytes i rest, decodeOp bytes = .ok (i, rest) → ∃ word, encode i = some (.op word) ∧ bytes = word ++ rest) ∧
    ∀ payload i rest, decodePacket payload = .ok (i, rest) → encode i = some (.packet payload) ∧ rest = []

/-- A few words written out from 30_encoding.md R126 and the examples of 95_test_vectors.md decode to their operations;
the check values of the CRC (30_encoding.md R122) and the bytes of the record R1 (R108, 95_test_vectors.md V6) are what
the spec writes out. -/
def Obligations.WrittenOutWordsDecode : Prop :=
  decodeOp [0x01#8, 0x03#8, 0x00#8, 0x00#8, 0x00#8] = .ok (.timerStart 3#32, []) ∧
    decodeOp [0x0A#8, 0x44#8, 0x01#8, 0xFD#8, 0x06#8] = .ok (.i2cStart 0x44#8 [0xFD#8] 0x06#8, []) ∧
      decodeOp [0x12#8, 0x02#8, 0x01#8, 0x00#8, 0xAA#8, 0x02#8, 0x00#8, 0xBB#8, 0xCC#8]
          = .ok (.radioStartTx [[0xAA#8], [0xBB#8, 0xCC#8]], []) ∧
        decodeOp [0x15#8, 0x07#8] = .ok (.radioEventRead 0x07#8, []) ∧
          decodeOp [0x22#8, 0x00#8] = .ok (.codecDecode .view, []) ∧
            decodePacket [0x01#8, 0x80#8, 0x55#8] = .ok (.pktEnc 1#15 [0x55#8], []) ∧
              decodeConfig 0x03010203#32 = .cfgword 0x03#8 0x01#8 0x02#8 0x03#8 ∧
    (∀ order init covered crc,
      (order, init, covered, crc) ∈
          [(BitOrder.lsbFirst, 0x000000#24, [0x80#8], 0x00065B#24), (.lsbFirst, 0x000000#24, [0x01#8], 0x032D80#24),
            (.lsbFirst, 0x000000#24, [0x03#8, 0x01#8, 0x00#8], 0x628788#24),
            (.lsbFirst, 0x000000#24, [0x31#8, 0x32#8, 0x33#8, 0x34#8, 0x35#8, 0x36#8, 0x37#8, 0x38#8, 0x39#8],
              0x159B3B#24),
            (.lsbFirst, 0x555555#24, [0x03#8, 0x01#8, 0x00#8], 0xCC2A00#24),
            (.lsbFirst, 0x555555#24, [0x31#8, 0x32#8, 0x33#8, 0x34#8, 0x35#8, 0x36#8, 0x37#8, 0x38#8, 0x39#8],
              0x6A5A43#24),
            (.lsbFirst, 0xFFFFFF#24, [0x03#8, 0x01#8, 0x00#8], 0x91774B#24),
            (.msbFirst, 0x000000#24, [0x80#8], 0x032D80#24), (.msbFirst, 0x000000#24, [0x01#8], 0x00065B#24)] →
        crc24 order 0x00065B#24 init covered = crc) ∧
      ser
          { type := 1#15, deviceId := 0x1122334455667788#64, partId := 0x0A0B0C0D#32, seq := 0#32, sensorId := 1#16,
            fields := [0x00#8, 0x00#8, 0xBC#8, 0x41#8, 0x00#8, 0x00#8, 0x34#8, 0x42#8] } =
        [0x88#8, 0x77#8, 0x66#8, 0x55#8, 0x44#8, 0x33#8, 0x22#8, 0x11#8, 0x0D#8, 0x0C#8, 0x0B#8, 0x0A#8, 0x00#8,
          0x00#8, 0x00#8, 0x00#8, 0x01#8, 0x00#8, 0x00#8, 0x00#8, 0xBC#8, 0x41#8, 0x00#8, 0x00#8, 0x34#8, 0x42#8]

/-- The operation map: exactly 25 values of the operation byte are operations, and every other value is refused by its
name (30_encoding.md R125). -/
def Obligations.OtherOperationBytesAreNoOperation : Prop :=
  ∀ (op : Byte) (bs : List Byte),
    decodeOp (op :: bs) = .error (.unknownOperation op) ↔
      op.toNat ∉ [0x01, 0x02, 0x03, 0x04, 0x05, 0x06, 0x07, 0x08, 0x09, 0x0A, 0x0B, 0x10, 0x11, 0x12, 0x13, 0x14, 0x15,
        0x16, 0x17, 0x18, 0x20, 0x21, 0x22, 0x30, 0x31]

/-- The type tag: `le16` of the first two payload bytes; bit 15, which is bit 7 of the second byte, is the encrypted flag;
bits 14:0 are the type (30_encoding.md R103). -/
def Obligations.PacketTagSelectsTheLayout : Prop :=
  ∀ (lo hi : Byte) (content : List Byte),
    (hi ++ lo : BitVec 16).getLsbD 15 = hi.getLsbD 7 ∧
      (hi.getLsbD 7 = true →
        decodePacket (lo :: hi :: content) = .ok (.pktEnc ((hi ++ lo : BitVec 16).extractLsb' 0 15) content, [])) ∧
      (hi.getLsbD 7 = false →
        decodePacket (lo :: hi :: content) = .ok (.pktPlain ((hi ++ lo : BitVec 16).extractLsb' 0 15) content, []))

/-- The configuration word: four 8-bit fields, most significant first; the boot read returns them and changes nothing else
(30_encoding.md R118, 70_reset_and_hazards.md R385; that the read is an instruction with a result is log 13). -/
def Obligations.ConfigurationWordReadsItsFields : Prop :=
  ∀ (board major minor patch : Byte) (s : State),
    decodeConfig (board ++ major ++ minor ++ patch) = .cfgword board major minor patch ∧
      exec (.cfgword board major minor patch) s
        = .next { s with host := { s.host with result := .ok (.config board major minor patch) } }

/-! ### The step -/

/-- A step runs the decoded instruction: on the host's turn, with no operation under way and not Halted, the step is
`exec` of what the host's next word decodes to, with the turn and the word taken (turns and words are the model's: log 1,
log 2; bytes after an operation word are the next word: log 27; that a payload in `BUF` and the configuration word are
words to decode is log 13). -/
def Obligations.StepRunsTheFetchedInstruction : Prop :=
  ∀ (s : State) (ts : List Turn) (ws : List HostWord),
    s.turns = .host :: ts → s.mode ≠ .halted → s.host.todo = [] →
      (∀ bytes i rest, s.host.words = .call bytes :: ws → decodeOp bytes = .ok (i, rest) →
        step s =
          exec i
            { s with
              turns := ts, host := { s.host with words := if rest = [] then ws else .call rest :: ws } }) ∧
      (∀ i rest, s.host.words = .packet :: ws →
        decodePacket ((List.range ((s.byteAt .buf 0).toNat - 1)).map fun j => s.byteAt .buf (1 + j)) = .ok (i, rest) →
        step s = exec i { s with turns := ts, host := { s.host with words := ws } }) ∧
      (s.host.words = .bootRead :: ws →
        step s = exec (decodeConfig s.par.cfgword) { s with turns := ts, host := { s.host with words := ws } })

/-- The other turns: an agent's turn is `exec` of its internal step; a host turn goes on with the operation under way; with
no turn nothing moves; an instruction that is no agent's step gets no turn (00_scope.md R15; log 1, log 26). -/
def Obligations.StepTakesTheNextTurn : Prop :=
  ∀ (s : State) (ts : List Turn),
    (s.turns = [] → step s = .next s) ∧
      (∀ i a, s.turns = .agent i :: ts → i.agent = some a → a ≠ .host → step s = exec i { s with turns := ts }) ∧
        (∀ i, s.turns = .agent i :: ts → (i.agent = none ∨ i.agent = some .host) → step s = .refused .notAnAgentStep) ∧
          (∀ x rest, s.turns = .host :: ts → s.mode ≠ .halted → s.host.todo = x :: rest →
            step s = runTask x { s with turns := ts, host := { s.host with todo := rest } })

/-- Where the host fetches no instruction. A word that is no operation is refused: the run is marked, the word is gone,
nothing else changes (30_encoding.md R125; that the whole word is dropped is log 10). A packet of one or
two bytes has no whole tag and is `Malformed` (R123(b)); so, by the model's choice, is the packet of a length byte of 0, of
which R123(a) says only that "nothing is decoded" (log 13). With no word and nothing to go on with, the host's turn passes
(log 1). -/
def Obligations.UndecodableWordMarksTheRunRefused : Prop :=
  ∀ (s : State) (ts : List Turn) (ws : List HostWord),
    s.turns = .host :: ts → s.mode ≠ .halted → s.host.todo = [] →
      (∀ bytes e, s.host.words = .call bytes :: ws → decodeOp bytes = .error e →
        step s =
          .next
            { s with
              turns := ts, refused := true,
              host := { s.host with words := ws, result := .refused (.notAnOperation e) } }) ∧
      (s.host.words = .packet :: ws → (s.byteAt .buf 0).toNat ≤ 2 →
        step s = .next { s with turns := ts, host := { s.host with words := ws, result := .err .malformed } }) ∧
      (s.host.words = [] → step s = .next { s with turns := ts })

/-- Once Halted, "no host step is enabled ever again": along every run the processor stays Halted and nothing of the
host's side changes (10_state.md R50; that a host turn then changes nothing is log 24). -/
def Obligations.HaltedHostTakesNoStep : Prop :=
  ∀ (k : Nat) (s t : State), s.mode = .halted → Host.Core.run Sys2Proof.core k s = .next t →
    t.mode = .halted ∧ t.host = s.host ∧ t.seq = s.seq ∧ t.hfclk = s.hfclk ∧ t.refused = s.refused

/-! ### Invariants -/

/-- Every step keeps the invariant of 10_state.md R58 and what makes it inductive (`Inv` in Safety.lean). -/
def Obligations.StepKeepsTheInvariant : Prop :=
  ∀ s t : State, Inv s → Sys2Proof.Machine.step s = .next t → Inv t

/-- The invariant holds after power-on. -/
def Obligations.PowerOnMeetsTheInvariant : Prop := Inv State.reset

/-- The parameters, the key and the configuration word among them, are never written (10_state.md R47, R53; that they
stand in the state is log 5), and the refused mark is sticky (R54). At power-on `ACCEPT_PLAINTEXT` has its default, true
(00_scope.md R12, 45_codec.md R286; log 29). -/
def Obligations.ParametersAndRefusalMarkPersist : Prop :=
  State.reset.par.acceptPlaintext = true ∧
    ∀ s t : State, step s = .next t → t.par = s.par ∧ (s.refused = true → t.refused = true)

/-- The state after power-on, every element whose value 10_state.md R60 gives. -/
def Obligations.PowerOnState : Prop :=
  (∀ p, State.reset.handle p = { phase := .idle, done := false, inten := false }) ∧
    State.reset.radio.inten = false ∧ State.reset.timer.counter = 0 ∧ State.reset.rtc.counter = 0 ∧
      State.reset.timer.running = false ∧ State.reset.rtc.running = false ∧ State.reset.i2c.enabled = false ∧
        State.reset.i2c.txn = none ∧ State.reset.i2c.rdata = [] ∧ State.reset.i2c.err = .noError ∧
          State.reset.radio.state = .disabled ∧ State.reset.radio.cfg = .noCfg ∧
            State.reset.radio.shorts = { readyStart := false, endDisable := false } ∧
              (∀ k, k < 8 → State.reset.radio.ev.get? k = some false) ∧ State.reset.radio.pktptr = .unset ∧
                State.reset.radio.rxLatch = .noRx ∧ State.reset.radio.rxProg = none ∧ State.reset.radio.txProg = none ∧
                  State.reset.seq = 0 ∧ State.reset.mode = .running ∧ State.reset.hfclk = false ∧
                    State.reset.refused = false

/-- "Written only by the host's assemble step": in every step the sequence index is unchanged, or the host assembles a
record and the index is incremented modulo 2^32 (10_state.md R49, 46_host_sequences.md R318; that assembling is a task of
the host is log 21). -/
def Obligations.SequenceIndexMovesOnlyByAssembling : Prop :=
  ∀ s t : State, step s = .next t →
    t.seq = s.seq ∨
      ∃ ts ty x f rest,
        s.turns = .host :: ts ∧ s.host.todo = .assemble ty x f :: rest ∧ t.seq = s.seq + 1

/-- Which instructions reach which store: only `RADIO_START_TX` and the radio's store steps write `BUF`, only the codec
writes the scratch buffers (20_memory.md R71; the last host step of an encode, which writes `SOUT`, is a task, log 15). -/
def Obligations.OnlyTheirOperationsWriteTheStores : Prop :=
  ∀ (i : Instr) (s t : State), exec i s = .next t →
    (t.buf = s.buf ∨ (∃ x, i = .radioStartTx x) ∨ i = .radioRxStore ∨ ∃ x, i = .radioRxEnd x) ∧
      (t.sin = s.sin ∨ (∃ r, i = .codecEncodeEnc r) ∨ (∃ r, i = .sendEncrypted r) ∨ (∃ v, i = .codecDecode v) ∨
        ∃ ty c, i = .pktEnc ty c) ∧
        (t.sout = s.sout ∨ (∃ v, i = .codecDecode v) ∨ ∃ ty c, i = .pktEnc ty c)

/-- Who sets and who clears flags (10_state.md R55): a host operation sets no flag, but for `RADIO_DISABLE`, which sets only
`ev.disabled`; a flag is cleared only by a wait, `RNG_POLL`, `RADIO_EVENT_RESET_ALL` or the receive handler; after
`RADIO_EVENT_RESET_ALL` every flag reader returns false. -/
def Obligations.FlagsAreSetByAgentsAndClearedByTheirReaders : Prop :=
  (∀ (i : Instr) (s t : State), i.agent = some .host → exec i s = .next t →
      (∀ p, (t.handle p).done = true → (s.handle p).done = true) ∧
        ∀ k, t.radio.ev.get? k = some true → s.radio.ev.get? k = some true ∨ (i = .radioDisable ∧ k = 7)) ∧
    (∀ (i : Instr) (s t : State), exec i s = .next t →
      (∀ p, (s.handle p).done = true → (t.handle p).done = false →
        (p, i) ∈ [(Periph.timer, Instr.timerWait), (.rtc, .rtcWait), (.i2c, .i2cWait), (.rng, .rngWait),
          (.rng, .rngPoll)]) ∧
        ∀ k, s.radio.ev.get? k = some true → t.radio.ev.get? k = some false →
          i = .radioEventResetAll ∨ i = .irqRadioRx) ∧
      ∀ (s t : State) (k : Byte), exec .radioEventResetAll s = .next t → k.toNat ≤ 7 →
        exec (.radioEventRead k) t = .next { t with host := { t.host with result := .ok (.flag false) } }

/-- The transitions of the radio's state: each change is one of the table's rows (44_radio.md R256), with one exception:
`IRQ_RADIO_RX` re-arms from whatever state it finds the radio in, as its own pseudocode says (R247), where the row's From is
Disabled; a stale `ev.disabled` makes it so (70_reset_and_hazards.md R396; log 30). The internal parts are the chained
halves of their steps (log 14). -/
def Obligations.RadioStateChangesOnlyByItsTable : Prop :=
  ∀ (i : Instr) (s t : State), exec i s = .next t →
    t.radio.state = s.radio.state ∨
      ((∃ x, i = .radioStartTx x) ∧ s.radio.state = .disabled ∧ s.radio.cfg = .txCfg ∧ t.radio.state = .ready ∧
        t.radio.dir = .tx) ∨
      (i = .radioStartRx ∧ s.radio.state = .disabled ∧ s.radio.cfg = .rxCfg ∧ t.radio.state = .ready ∧
        t.radio.dir = .rx) ∨
      (i = .irqRadioRx ∧ s.radio.ev.disabled = true ∧ s.radio.inten = true ∧ s.radio.cfg = .rxCfg ∧
        t.radio.state = .ready ∧ t.radio.dir = .rx) ∨
      ((i = .radioRamp ∨ i = .radioShortStart) ∧ s.radio.state = .ready ∧ s.hfclk = true ∧
        ((s.radio.dir = .tx ∧ t.radio.state = .tx) ∨ (s.radio.dir = .rx ∧ t.radio.state = .rx))) ∨
      ((i = .radioTxEnd ∨ i = .radioShortDisable) ∧ s.radio.state = .tx ∧ t.radio.state = .disabled) ∨
      (((∃ x, i = .radioRxEnd x) ∨ i = .radioShortDisable) ∧ s.radio.state = .rx ∧ t.radio.state = .disabled) ∨
      (i = .radioDisable ∧ t.radio.state = .disabled)

/-- Any two interrupt handlers commute, so the order of simultaneous interrupts cannot be observed (60_exceptions.md
R348). -/
def Obligations.InterruptHandlersCommute : Prop :=
  ∀ i j : Instr, i.agent = some .irq → j.agent = some .irq →
    ∀ s a b c d : State, exec i s = .next a → exec j a = .next b → exec j s = .next c → exec i c = .next d → b = d

/-- The key reaches nothing but the decoder (an encode reads it only in its last host step, log 15): any other instruction
does the same with another key (10_state.md R47, 20_memory.md R71). -/
def Obligations.KeyReachesOnlyTheCodec : Prop :=
  ∀ (i : Instr) (s t : State) (k : Key), (∀ v, i ≠ .codecDecode v) → (∀ ty c, i ≠ .pktEnc ty c) →
    exec i s = .next t →
      exec i { s with par := { s.par with key := k } } = .next { t with par := { t.par with key := k } }

/-! ### The one-shot timer and the real-time counter -/

/-- `TIMER_START(ticks)`: its word, its effect and its refusals (41_timer_rtc.md R162). -/
def Obligations.TimerStartArmsTheTimer : Prop :=
  ∀ (ticks : BitVec 32) (bs : List Byte) (s : State),
    decodeOp (0x01#8 :: (leBytes 4 ticks.toNat ++ bs)) = .ok (.timerStart ticks, bs) ∧
      (s.timer.hd.phase = .idle ∧ 1 ≤ ticks.toNat ∧ ticks.toNat < 2 ^ s.par.timerWidth →
        exec (.timerStart ticks) s =
          .next
            { s with
              timer :=
                { hd := { s.timer.hd with inten := true, phase := .active }, counter := 0, target := ticks.toNat,
                  running := true },
              host := { s.host with result := .ok .unit } }) ∧
      (¬ (s.timer.hd.phase = .idle ∧ 1 ≤ ticks.toNat ∧ ticks.toNat < 2 ^ s.par.timerWidth) →
        ∃ why, exec (.timerStart ticks) s =
          .next { s with refused := true, host := { s.host with result := .refused why } })

/-- `RTC_START(compare)`: its word, its effect and its refusals (41_timer_rtc.md R169). -/
def Obligations.RtcStartClearsAndArmsTheCounter : Prop :=
  ∀ (compare : BitVec 32) (bs : List Byte) (s : State),
    decodeOp (0x03#8 :: (leBytes 4 compare.toNat ++ bs)) = .ok (.rtcStart compare, bs) ∧
      (s.rtc.hd.phase = .idle ∧ compare.toNat < 2 ^ s.par.rtcWidth →
        exec (.rtcStart compare) s =
          .next
            { s with
              rtc :=
                { hd := { s.rtc.hd with inten := true, phase := .active }, counter := 0, compare := compare.toNat,
                  running := true },
              host := { s.host with result := .ok .unit } }) ∧
      (¬ (s.rtc.hd.phase = .idle ∧ compare.toNat < 2 ^ s.par.rtcWidth) →
        ∃ why, exec (.rtcStart compare) s =
          .next { s with refused := true, host := { s.host with result := .refused why } })

/-- `TIMER_TICK` counts; at the target it stops and sets the completion flag. `RTC_TICK` counts and never stops; a match sets
the completion flag only while Active. Stopped, neither agent has a step (41_timer_rtc.md R164, R171; log 9). -/
def Obligations.CountersTickAndMatch : Prop :=
  ∀ s : State,
    (s.timer.running = true → (s.timer.counter + 1) % 2 ^ s.par.timerWidth ≠ s.timer.target →
      exec .timerTick s =
        .next { s with timer := { s.timer with counter := (s.timer.counter + 1) % 2 ^ s.par.timerWidth } }) ∧
      (s.timer.running = true → (s.timer.counter + 1) % 2 ^ s.par.timerWidth = s.timer.target →
        exec .timerTick s =
          .next
            { s with
              timer :=
                { hd := { s.timer.hd with done := true }, counter := s.timer.target, target := s.timer.target,
                  running := false } }) ∧
      (s.timer.running = false → exec .timerTick s = .next s) ∧
      (s.rtc.running = true →
        exec .rtcTick s =
          .next
            { s with
              rtc :=
                { s.rtc with
                  counter := (s.rtc.counter + 1) % 2 ^ s.par.rtcWidth,
                  hd :=
                    { s.rtc.hd with
                      done :=
                        s.rtc.hd.done ||
                          (decide ((s.rtc.counter + 1) % 2 ^ s.par.rtcWidth = s.rtc.compare) &&
                            decide (s.rtc.hd.phase = .active)) } } }) ∧
      (s.rtc.running = false → exec .rtcTick s = .next s)

/-- A started timer completes after exactly `ticks` steps of `TIMER_TICK`, and not before (41_timer_rtc.md R164). -/
def Obligations.StartedTimerCompletesAfterItsTicks : Prop :=
  ∀ (s : State) (n : Nat) (ts : List Turn),
    s.timer.running = true → s.timer.counter = 0 → s.timer.target = n → 1 ≤ n → n < 2 ^ s.par.timerWidth →
      (∀ m, m < n → s.turns = List.replicate m (.agent .timerTick) ++ ts →
        Host.Core.run Sys2Proof.core m s = .next { s with turns := ts, timer := { s.timer with counter := m } }) ∧
        (s.turns = List.replicate n (.agent .timerTick) ++ ts →
          Host.Core.run Sys2Proof.core n s =
            .next
              { s with
                turns := ts,
                timer := { s.timer with hd := { s.timer.hd with done := true }, counter := n, running := false } })

/-- The first match of a started counter comes after exactly `compare` ticks, or after one full wrap for `compare = 0`
(41_timer_rtc.md R175). -/
def Obligations.FirstCompareMatchComesOnTime : Prop :=
  ∀ (s : State) (n : Nat) (ts : List Turn),
    s.rtc.running = true → s.rtc.counter = 0 → s.rtc.hd.phase = .active → s.rtc.hd.done = false →
      s.rtc.compare < 2 ^ s.par.rtcWidth → n = (if s.rtc.compare = 0 then 2 ^ s.par.rtcWidth else s.rtc.compare) →
        (∀ m, m < n → s.turns = List.replicate m (.agent .rtcTick) ++ ts →
          Host.Core.run Sys2Proof.core m s = .next { s with turns := ts, rtc := { s.rtc with counter := m } }) ∧
          (s.turns = List.replicate n (.agent .rtcTick) ++ ts →
            Host.Core.run Sys2Proof.core n s =
              .next
                { s with
                  turns := ts,
                  rtc := { s.rtc with hd := { s.rtc.hd with done := true }, counter := s.rtc.compare } })

/-- `P.wait()` for each blocking peripheral (40_blocking_primitive.md R143): while Active and done it performs the three
writes, the processor is Running and the driver's result is returned (the I2C driver's by 42_i2c.md R188); while Active and
not done the host is held, asleep, inside it; while Idle it is refused. That a held host is a next state with the same wait
at the front of its tasks is the model's choice (log 12). -/
def Obligations.WaitCompletesHoldsOrIsRefused : Prop :=
  ∀ s : State,
    (s.timer.hd.phase = .active → s.timer.hd.done = true →
      exec .timerWait s =
        .next
          { s with
            timer := { s.timer with hd := { phase := .idle, done := false, inten := false } }, mode := .running,
            host := { s.host with result := .ok .unit } }) ∧
      (s.rtc.hd.phase = .active → s.rtc.hd.done = true →
        exec .rtcWait s =
          .next
            { s with
              rtc := { s.rtc with hd := { phase := .idle, done := false, inten := false } }, mode := .running,
              host := { s.host with result := .ok .unit } }) ∧
      (s.rng.hd.phase = .active → s.rng.hd.done = true →
        exec .rngWait s =
          .next
            { s with
              rng := { s.rng with hd := { phase := .idle, done := false, inten := false } }, mode := .running,
              host := { s.host with result := .ok (.byte s.rng.value) } }) ∧
      (s.i2c.hd.phase = .active → s.i2c.hd.done = true →
        exec .i2cWait s =
          .next
            { s with
              i2c :=
                { s.i2c with
                  hd := { phase := .idle, done := false, inten := false }, txn := none, rdata := [], err := .noError },
              mode := .running,
              host :=
                { s.host with
                  result :=
                    if s.i2c.err = .noError then .ok (.bytes s.i2c.rdata)
                    else if s.i2c.err = .nack then .err .i2cNack else .err .i2cBus } }) ∧
      ∀ p i, (p, i) ∈ [(Periph.timer, Instr.timerWait), (.rtc, .rtcWait), (.i2c, .i2cWait), (.rng, .rngWait)] →
        ((s.handle p).phase = .active → (s.handle p).done = false →
          exec i s =
            .next
              { s with mode := .sleeping, host := { s.host with todo := .op i :: s.host.todo, result := .held } }) ∧
          ((s.handle p).phase = .idle →
            exec i s =
              .next { s with refused := true, host := { s.host with result := .refused (.notActive p) } })

/-! ### The random generator -/

/-- `RNG_START()` and `RNG_POLL()`: their words, effects and refusals (43_rng.md R202, R206). -/
def Obligations.RngStartAndPoll : Prop :=
  ∀ (bs : List Byte) (s : State),
    decodeOp (0x05#8 :: bs) = .ok (.rngStart, bs) ∧ decodeOp (0x07#8 :: bs) = .ok (.rngPoll, bs) ∧
      (s.rng.hd.phase = .idle →
        exec .rngStart s =
          .next
            { s with
              rng := { s.rng with hd := { s.rng.hd with inten := true, phase := .active } },
              host := { s.host with result := .ok .unit } }) ∧
      (s.rng.hd.phase = .active →
        exec .rngStart s =
          .next { s with refused := true, host := { s.host with result := .refused (.notIdle .rng) } }) ∧
      (s.rng.hd.phase = .active → s.rng.hd.done = false →
        exec .rngPoll s = .next { s with host := { s.host with result := .ok (.poll none) } }) ∧
      (s.rng.hd.phase = .active → s.rng.hd.done = true →
        exec .rngPoll s =
          .next
            { s with
              rng := { s.rng with hd := { phase := .idle, done := false, inten := false } },
              host := { s.host with result := .ok (.poll (some s.rng.value)) } }) ∧
      (s.rng.hd.phase = .idle →
        exec .rngPoll s =
          .next { s with refused := true, host := { s.host with result := .refused (.notActive .rng) } })

/-- `RNG_PRODUCE` writes any drawn byte and the completion flag, while Active and not done; otherwise the agent has no step
(43_rng.md R203; the draw is log 8, the turn without a step log 9). -/
def Obligations.RngProduceWritesAnyDraw : Prop :=
  ∀ (v : Byte) (s : State),
    (s.rng.hd.phase = .active → s.rng.hd.done = false →
      exec (.rngProduce v) s = .next { s with rng := { hd := { s.rng.hd with done := true }, value := v } }) ∧
      (¬ (s.rng.hd.phase = .active ∧ s.rng.hd.done = false) → exec (.rngProduce v) s = .next s)

/-- `DRAW_NONCE`, its first host step (43_rng.md R207; that the rest stands in the host's tasks is log 15). -/
def Obligations.DrawNonceBeginsWithAGeneration : Prop :=
  ∀ s : State,
    (s.rng.hd.phase = .idle →
      exec .drawNonce s =
        .next
          { s with
            rng := { s.rng with hd := { s.rng.hd with inten := true, phase := .active } },
            host :=
              { s.host with
                result := .ok .unit,
                todo :=
                  [.nonceTake 0, .nonceStart, .nonceTake 1, .nonceStart, .nonceTake 2, .nonceStart, .nonceTake 3,
                    .nonceStart, .nonceTake 4, .nonceStart, .nonceTake 5, .nonceStart, .nonceTake 6, .nonceStart,
                    .nonceTake 7] ++ s.host.todo } }) ∧
      (s.rng.hd.phase = .active →
        exec .drawNonce s =
          .next { s with refused := true, host := { s.host with result := .refused (.notIdle .rng) } })

/-- Eight blocking generations fill the nonce in order, the first draw at index 0 (43_rng.md R207): whenever the generator
answers each start before the host waits, the run ends with the drawn nonce and the generator Idle. The cut into these host
steps, the later ones standing in the host's tasks, is log 15. -/
def Obligations.DrawNonceStoresTheDrawsInOrder : Prop :=
  ∀ (s : State) (v : Nonce) (rest : List Task) (ts : List Turn),
    s.mode ≠ .halted → s.host.todo = .op .drawNonce :: rest → s.rng.hd.phase = .idle → s.rng.hd.done = false →
      s.turns =
          [.host, .agent (.rngProduce v[0]), .host, .host, .agent (.rngProduce v[1]), .host, .host,
            .agent (.rngProduce v[2]), .host, .host, .agent (.rngProduce v[3]), .host, .host,
            .agent (.rngProduce v[4]), .host, .host, .agent (.rngProduce v[5]), .host, .host,
            .agent (.rngProduce v[6]), .host, .host, .agent (.rngProduce v[7]), .host] ++ ts →
        Host.Core.run Sys2Proof.core 24 s =
          .next
            { s with
              nonce := v, mode := .running, turns := ts,
              rng := { hd := { phase := .idle, done := false, inten := false }, value := v[7] },
              host := { s.host with todo := rest, result := .ok (.byte v[7]) } }

/-! ### The I2C driver -/

/-- `I2C_ENABLE()` and `I2C_DISABLE()` (42_i2c.md R182, R183). -/
def Obligations.I2cEnableAndDisable : Prop :=
  ∀ (bs : List Byte) (s : State),
    decodeOp (0x08#8 :: bs) = .ok (.i2cEnable, bs) ∧ decodeOp (0x09#8 :: bs) = .ok (.i2cDisable, bs) ∧
      (s.i2c.hd.phase = .idle →
        exec .i2cEnable s =
          .next { s with i2c := { s.i2c with enabled := true }, host := { s.host with result := .ok .unit } }) ∧
      (s.i2c.hd.phase = .idle →
        exec .i2cDisable s =
          .next { s with i2c := { s.i2c with enabled := false }, host := { s.host with result := .ok .unit } }) ∧
      (s.i2c.hd.phase = .active →
        exec .i2cEnable s =
            .next { s with refused := true, host := { s.host with result := .refused (.notIdle .i2c) } } ∧
          exec .i2cDisable s =
            .next { s with refused := true, host := { s.host with result := .refused (.notIdle .i2c) } })

/-- `I2C_START(addr, wdata, rlen)` (42_i2c.md R184). -/
def Obligations.I2cStartRecordsTheTransaction : Prop :=
  ∀ (addr rlen : Byte) (wdata bs : List Byte) (s : State),
    (wdata.length ≤ 255 →
      decodeOp (0x0A#8 :: addr :: (BitVec.ofNat 8 wdata.length :: (wdata ++ rlen :: bs)))
        = .ok (.i2cStart addr wdata rlen, bs)) ∧
      (s.i2c.hd.phase = .idle ∧ s.i2c.enabled = true ∧ addr.toNat < 128 ∧ wdata.length ≤ 255 ∧
          1 ≤ wdata.length + rlen.toNat →
        exec (.i2cStart addr wdata rlen) s =
          .next
            { s with
              i2c :=
                { s.i2c with
                  hd := { s.i2c.hd with inten := true, phase := .active },
                  txn := some { addr := BitVec.ofNat 7 addr.toNat, wdata := wdata, rlen := rlen.toNat }, rdata := [],
                  err := .noError },
              host := { s.host with result := .ok .unit } }) ∧
      (¬ (s.i2c.hd.phase = .idle ∧ s.i2c.enabled = true ∧ addr.toNat < 128 ∧ wdata.length ≤ 255 ∧
          1 ≤ wdata.length + rlen.toNat) →
        ∃ why, exec (.i2cStart addr wdata rlen) s =
          .next { s with refused := true, host := { s.host with result := .refused why } })

/-- `I2C_COMPLETE` writes the answer's result and the completion flag; with `Stall`, or when not started, the step is never
enabled; nor is it for an acknowledge with another number of bytes than were asked, which the environment does not give
(42_i2c.md R186, R187; log 8, log 9). -/
def Obligations.I2cCompletePublishesTheAnswer : Prop :=
  ∀ (s : State) (x : Txn),
    (s.i2c.hd.phase = .active → s.i2c.hd.done = false → s.i2c.txn = some x →
      (∀ rbytes, rbytes.length = x.rlen →
        exec (.i2cComplete (.ack rbytes)) s =
          .next
            { s with i2c := { s.i2c with hd := { s.i2c.hd with done := true }, rdata := rbytes, err := .noError } }) ∧
        (∀ rbytes, rbytes.length ≠ x.rlen → exec (.i2cComplete (.ack rbytes)) s = .next s) ∧
        exec (.i2cComplete .nack) s =
            .next { s with i2c := { s.i2c with hd := { s.i2c.hd with done := true }, rdata := [], err := .nack } } ∧
          exec (.i2cComplete .busFault) s =
            .next { s with i2c := { s.i2c with hd := { s.i2c.hd with done := true }, rdata := [], err := .bus } }) ∧
      exec (.i2cComplete .stall) s = .next s ∧
        ∀ a, ¬ (s.i2c.hd.phase = .active ∧ s.i2c.hd.done = false) → exec (.i2cComplete a) s = .next s

/-- `I2C_WAIT()` returns the bytes or raises the failure, and in every case the handle is Idle and the transaction and its
result are cleared; not done, the host is held; Idle, it is refused (42_i2c.md R188). That a held host is a next state with
the wait queued again is the model's choice (log 12). -/
def Obligations.I2cWaitReturnsOrRaises : Prop :=
  ∀ (bs : List Byte) (s : State),
    decodeOp (0x0B#8 :: bs) = .ok (.i2cWait, bs) ∧
      (s.i2c.hd.phase = .active → s.i2c.hd.done = true →
        exec .i2cWait s =
          .next
            { s with
              i2c :=
                { s.i2c with
                  hd := { phase := .idle, done := false, inten := false }, txn := none, rdata := [], err := .noError },
              mode := .running,
              host :=
                { s.host with
                  result :=
                    if s.i2c.err = .noError then .ok (.bytes s.i2c.rdata)
                    else if s.i2c.err = .nack then .err .i2cNack else .err .i2cBus } }) ∧
      (s.i2c.hd.phase = .active → s.i2c.hd.done = false →
        exec .i2cWait s =
          .next
            { s with
              mode := .sleeping, host := { s.host with todo := .op .i2cWait :: s.host.todo, result := .held } }) ∧
      (s.i2c.hd.phase = .idle →
        exec .i2cWait s =
          .next { s with refused := true, host := { s.host with result := .refused (.notActive .i2c) } })

/-! ### Interrupt handlers -/

/-- The generic handlers (40_blocking_primitive.md R145): while the line is high, `inten <- false` and nothing else; while
it is low, no step (log 9); and whether the handler runs before the wait's cleanup makes no difference to any later state. -/
def Obligations.GenericHandlersOnlyClearTheirEnable : Prop :=
  ∀ s : State,
    (s.timer.hd.done = true → s.timer.hd.inten = true →
      exec .irqTimer s = .next { s with timer := { s.timer with hd := { s.timer.hd with inten := false } } }) ∧
      (s.rtc.hd.done = true → s.rtc.hd.inten = true →
        exec .irqRtc s = .next { s with rtc := { s.rtc with hd := { s.rtc.hd with inten := false } } }) ∧
      (s.rng.hd.done = true → s.rng.hd.inten = true →
        exec .irqRng s = .next { s with rng := { s.rng with hd := { s.rng.hd with inten := false } } }) ∧
      (s.i2c.hd.done = true → s.i2c.hd.inten = true →
        exec .irqI2c s = .next { s with i2c := { s.i2c with hd := { s.i2c.hd with inten := false } } }) ∧
      ∀ p i w, (p, i, w) ∈ [(Periph.timer, Instr.irqTimer, Instr.timerWait), (.rtc, .irqRtc, .rtcWait),
          (.i2c, .irqI2c, .i2cWait), (.rng, .irqRng, .rngWait)] →
        (¬ ((s.handle p).done = true ∧ (s.handle p).inten = true) → exec i s = .next s) ∧
          ∀ t, exec i s = .next t → (s.handle p).phase = .active → (s.handle p).done = true → exec w t = exec w s

/-- The radio's handlers: on the transmit side the enable bit is cleared and the flag stays; on the receive side the outcome
is latched, all flags are cleared, reception is re-armed always, and the processor wakes; while the line is low, or for
the other role, there is no step (44_radio.md R232, R247, R246; log 9). -/
def Obligations.RadioHandlersClearOrRearm : Prop :=
  ∀ s : State,
    (s.radio.ev.disabled = true → s.radio.inten = true → s.radio.cfg = .txCfg →
      exec .irqRadioTx s = .next { s with radio := { s.radio with inten := false } }) ∧
      (¬ (s.radio.ev.disabled = true ∧ s.radio.inten = true ∧ s.radio.cfg = .txCfg) →
        exec .irqRadioTx s = .next s) ∧
      (s.radio.ev.disabled = true → s.radio.inten = true → s.radio.cfg = .rxCfg →
        exec .irqRadioRx s =
          .next
            { s with
              radio :=
                { s.radio with
                  rxLatch :=
                    if s.radio.ev.payload = true ∧ s.radio.ev.crcok = true ∧ s.radio.ev.address = true then .rxGood
                    else .rxBad,
                  ev :=
                    { ready := false, address := false, addrmiss := false, payload := false, crcok := false,
                      crcerror := false, ended := false, disabled := false },
                  pktptr := .toBuf, inten := true, dir := .rx, state := .ready },
              mode := if s.mode = .sleeping then .running else s.mode }) ∧
      (¬ (s.radio.ev.disabled = true ∧ s.radio.inten = true ∧ s.radio.cfg = .rxCfg) →
        exec .irqRadioRx s = .next s)

/-! ### The radio, the host's side -/

/-- `RADIO_INIT_TX()` and `RADIO_INIT_RX()` (44_radio.md R217, R218). -/
def Obligations.RadioInitWritesTheFixedConfiguration : Prop :=
  ∀ (bs : List Byte) (s : State) (i : Instr) (c : RadioCfg),
    decodeOp (0x10#8 :: bs) = .ok (.radioInitTx, bs) ∧ decodeOp (0x11#8 :: bs) = .ok (.radioInitRx, bs) ∧
      ((i, c) ∈ [(Instr.radioInitTx, RadioCfg.txCfg), (.radioInitRx, .rxCfg)] →
        (s.radio.state = .disabled →
          exec i s =
            .next
              { s with
                radio :=
                  { s.radio with
                    conf :=
                      { channel := s.par.channel, addr := s.par.addr, crcLen := 3, crcPoly := 0x00065B#24,
                        crcInit := s.par.crcInit, rate := s.par.rate, maxlen := 255 },
                    shorts := { readyStart := true, endDisable := true }, cfg := c },
                host := { s.host with result := .ok .unit } }) ∧
          (s.radio.state ≠ .disabled →
            exec i s =
              .next { s with refused := true, host := { s.host with result := .refused .radioNotDisabled } }))

/-- `RADIO_START_TX(fields)`: the length byte modulo 256 and the concatenated bytes stand in `BUF`, its other bytes are as
before; pointer, enable, direction, Ready; and its word; more than 257 bytes, a radio that is not Disabled or not configured to transmit
is refused (44_radio.md R222, 30_encoding.md R102). -/
def Obligations.RadioStartTxFillsTheBuffer : Prop :=
  ∀ (strings : List (List Byte)) (bs : List Byte) (s : State),
    (strings.length ≤ 255 → (∀ x ∈ strings, x.length ≤ 65535) →
      decodeOp (0x12#8 :: BitVec.ofNat 8 strings.length ::
          (strings.flatMap (fun x => leBytes 2 x.length ++ x) ++ bs))
        = .ok (.radioStartTx strings, bs)) ∧
    (s.radio.cfg = .txCfg ∧ s.radio.state = .disabled ∧ strings.flatten.length ≤ 257 →
      ∃ t, exec (.radioStartTx strings) s = .next t ∧
        t =
          { s with
            buf := t.buf,
            radio := { s.radio with pktptr := .toBuf, inten := true, dir := .tx, state := .ready },
            host := { s.host with result := .ok .unit } } ∧
        t.byteAt .buf 0 = BitVec.ofNat 8 ((strings.flatten.length + 1) % 256) ∧
        ∀ a, t.byteAt .buf (a + 1) = strings.flatten.getD a (s.byteAt .buf (a + 1))) ∧
      (¬ (s.radio.cfg = .txCfg ∧ s.radio.state = .disabled ∧ strings.flatten.length ≤ 257) →
        ∃ why, exec (.radioStartTx strings) s =
          .next { s with refused := true, host := { s.host with result := .refused why } })

/-- `RADIO_START_RX()` (44_radio.md R223). -/
def Obligations.RadioStartRxArmsReception : Prop :=
  ∀ (bs : List Byte) (s : State),
    decodeOp (0x13#8 :: bs) = .ok (.radioStartRx, bs) ∧
      (s.radio.cfg = .rxCfg ∧ s.radio.state = .disabled →
        exec .radioStartRx s =
          .next
            { s with
              radio := { s.radio with pktptr := .toBuf, inten := true, dir := .rx, state := .ready },
              host := { s.host with result := .ok .unit } }) ∧
      (¬ (s.radio.cfg = .rxCfg ∧ s.radio.state = .disabled) →
        ∃ why, exec .radioStartRx s =
          .next { s with refused := true, host := { s.host with result := .refused why } })

/-- The readers: `RADIO_PAYLOAD()`, `RADIO_EVENT_READ(k)` and `RADIO_TAKE_RX()` return what their rules say and change
nothing but, for the last, the latch (44_radio.md R249, R251, R252). The pair `RADIO_PAYLOAD` returns is the current view
from there on (20_memory.md R91; that the host keeps it is log 17). -/
def Obligations.RadioReadersReturnTheState : Prop :=
  ∀ (bs : List Byte) (k : Byte) (s : State),
    decodeOp (0x14#8 :: bs) = .ok (.radioPayload, bs) ∧ decodeOp (0x15#8 :: k :: bs) = .ok (.radioEventRead k, bs) ∧
      decodeOp (0x18#8 :: bs) = .ok (.radioTakeRx, bs) ∧
      exec .radioPayload s =
        .next
          { s with
            host :=
              { s.host with
                view := if s.byteAt .buf 0 = 0x00#8 then none else some (1, (s.byteAt .buf 0).toNat - 1),
                result :=
                  .ok (.view (if s.byteAt .buf 0 = 0x00#8 then none else some (1, (s.byteAt .buf 0).toNat - 1))) } } ∧
      (∀ b, [s.radio.ev.ready, s.radio.ev.address, s.radio.ev.addrmiss, s.radio.ev.payload, s.radio.ev.crcok,
            s.radio.ev.crcerror, s.radio.ev.ended, s.radio.ev.disabled][k.toNat]? = some b →
        exec (.radioEventRead k) s = .next { s with host := { s.host with result := .ok (.flag b) } }) ∧
      (7 < k.toNat →
        exec (.radioEventRead k) s =
          .next { s with refused := true, host := { s.host with result := .refused .flagIndex } }) ∧
      exec .radioTakeRx s =
        .next
          { s with
            radio := { s.radio with rxLatch := .noRx },
            host := { s.host with result := .ok (.reception s.radio.rxLatch s.radio.rssi) } }

/-- `RADIO_EVENT_RESET_ALL()` clears the eight flags and nothing else; `RADIO_DISABLE()` clears the enable bit and performs
the disable task from any state (44_radio.md R250, R245, R253). -/
def Obligations.RadioResetAllAndDisable : Prop :=
  ∀ (bs : List Byte) (s : State),
    decodeOp (0x16#8 :: bs) = .ok (.radioEventResetAll, bs) ∧ decodeOp (0x17#8 :: bs) = .ok (.radioDisable, bs) ∧
      exec .radioEventResetAll s =
        .next
          { s with
            radio :=
              { s.radio with
                ev :=
                  { ready := false, address := false, addrmiss := false, payload := false, crcok := false,
                    crcerror := false, ended := false, disabled := false } },
            host := { s.host with result := .ok .unit } } ∧
      exec .radioDisable s =
        .next
          { s with
            radio :=
              { s.radio with
                inten := false, rxProg := none, txProg := none, state := .disabled,
                ev := { s.radio.ev with disabled := true } },
            host := { s.host with result := .ok .unit } }

/-- `HFCLK_START()` and `HFCLK_STOP()` (46_host_sequences.md R320, R321). -/
def Obligations.HighFrequencyClockStartsAndStops : Prop :=
  ∀ (bs : List Byte) (s : State),
    decodeOp (0x30#8 :: bs) = .ok (.hfclkStart, bs) ∧ decodeOp (0x31#8 :: bs) = .ok (.hfclkStop, bs) ∧
      exec .hfclkStart s = .next { s with hfclk := true, host := { s.host with result := .ok .unit } } ∧
      (s.radio.state = .disabled →
        exec .hfclkStop s = .next { s with hfclk := false, host := { s.host with result := .ok .unit } }) ∧
      (s.radio.state ≠ .disabled →
        exec .hfclkStop s =
          .next { s with refused := true, host := { s.host with result := .refused .radioNotDisabled } })

/-! ### The RADIO agent and the air -/

/-- `RADIO_RAMP` and the start task chained to it: the ready event, then Tx with the frame captured from `BUF`, or Rx with
nothing in progress; with the shortcut clear, only the ready event; without Ready or the clock there is no step
(44_radio.md R226, R228, R224, R221; log 9). The shortcut is set in every configured radio (`Inv`). -/
def Obligations.RadioRampCapturesOrListens : Prop :=
  ∀ (s : State) (body covered : List Byte) (f : Frame),
    body = (List.range (max (s.byteAt .buf 0).toNat 1)).map (fun j => s.byteAt .buf j) →
    covered = (if s.par.crcCoversAddress then s.radio.conf.addr.pfx :: s.radio.conf.addr.base.toList else []) ++ body →
    f =
      { addr := s.radio.conf.addr, body := body,
        crc := crc24 s.par.bitOrder s.radio.conf.crcPoly s.radio.conf.crcInit covered } →
      (s.radio.state = .ready → s.hfclk = true → s.radio.shorts.readyStart = true → s.radio.dir = .tx →
        exec .radioRamp s =
            .next
              { s with
                radio :=
                  { s.radio with ev := { s.radio.ev with ready := true }, txProg := some f, state := .tx } } ∧
          (s.radio.ev.ready = true →
            exec .radioShortStart s = .next { s with radio := { s.radio with txProg := some f, state := .tx } })) ∧
      (s.radio.state = .ready → s.hfclk = true → s.radio.shorts.readyStart = true → s.radio.dir = .rx →
        exec .radioRamp s =
            .next
              { s with
                radio := { s.radio with ev := { s.radio.ev with ready := true }, rxProg := none, state := .rx } } ∧
          (s.radio.ev.ready = true →
            exec .radioShortStart s = .next { s with radio := { s.radio with rxProg := none, state := .rx } })) ∧
      (s.radio.state = .ready → s.hfclk = true → s.radio.shorts.readyStart = false →
        exec .radioRamp s = .next { s with radio := { s.radio with ev := { s.radio.ev with ready := true } } }) ∧
      (s.radio.ev.ready = false ∨ s.radio.shorts.readyStart = false → exec .radioShortStart s = .next s) ∧
      (¬ (s.radio.state = .ready ∧ s.hfclk = true) →
        exec .radioRamp s = .next s ∧ exec .radioShortStart s = .next s)

/-- `RADIO_TX_END` emits the captured frame and, by the shortcut, the radio is Disabled; the chained part alone only
disables; with the shortcut clear, only the end event; in no other state is there a step (44_radio.md R229, R224;
log 9). -/
def Obligations.RadioTxEndEmitsTheFrame : Prop :=
  ∀ s : State,
    (s.radio.state = .tx → s.radio.shorts.endDisable = true →
      exec .radioTxEnd s =
        .next
          { s with
            air := s.air ++ s.radio.txProg.toList,
            radio :=
              { s.radio with
                txProg := none, state := .disabled, ev := { s.radio.ev with ended := true, disabled := true } } }) ∧
      (s.radio.state = .tx → s.radio.shorts.endDisable = false →
        exec .radioTxEnd s =
          .next
            { s with
              air := s.air ++ s.radio.txProg.toList,
              radio := { s.radio with txProg := none, ev := { s.radio.ev with ended := true } } }) ∧
      (s.radio.state ≠ .tx → exec .radioTxEnd s = .next s) ∧
      (s.radio.ev.ended = false ∨ s.radio.shorts.endDisable = false → exec .radioShortDisable s = .next s) ∧
      (s.radio.state = .tx ∨ s.radio.state = .rx → s.radio.shorts.endDisable = true → s.radio.ev.ended = true →
        exec .radioShortDisable s =
          .next
            { s with radio := { s.radio with state := .disabled, ev := { s.radio.ev with disabled := true } } }) ∧
      (s.radio.state ≠ .tx → s.radio.state ≠ .rx → exec .radioShortDisable s = .next s)

/-- `RADIO_RX_OFFER`: a matching frame sets the address flag, the signal strength and the reception in progress; a mismatch
only sets its flag; a radio that is not listening sees nothing, and a body of another length than its length byte says is
not offered (44_radio.md R235, R236; log 9, log 25). -/
def Obligations.RadioRxOfferFiltersTheAddress : Prop :=
  ∀ (f : Frame) (rssi : Rssi) (s : State),
    (s.radio.state = .rx → s.radio.rxProg = none → bodyWf f.body = true → f.addr = s.radio.conf.addr →
      exec (.radioRxOffer f rssi) s =
        .next
          { s with
            radio :=
              { s.radio with
                ev := { s.radio.ev with address := true }, rssi := rssi, rxProg := some (f, 0) } }) ∧
      (s.radio.state = .rx → s.radio.rxProg = none → bodyWf f.body = true → f.addr ≠ s.radio.conf.addr →
        exec (.radioRxOffer f rssi) s =
          .next { s with radio := { s.radio with ev := { s.radio.ev with addrmiss := true } } }) ∧
      (¬ (s.radio.state = .rx ∧ s.radio.rxProg = none ∧ bodyWf f.body = true) →
        exec (.radioRxOffer f rssi) s = .next s)

/-- `RADIO_RX_STORE` stores the next body byte at its index and nothing else; with no byte left, or not in Rx, there is no
step (44_radio.md R237; that nothing then changes is log 9). That an index outside `BUF` stops by name, where 20_memory.md
R78 says that no rule computes one, is log 25. -/
def Obligations.RadioRxStoreStoresOneByte : Prop :=
  ∀ (s : State) (f : Frame) (i : Nat),
    (s.radio.state = .rx → s.radio.rxProg = some (f, i) → i < f.body.length → i < 258 →
      ∃ t, exec .radioRxStore s = .next t ∧
        t = { s with buf := t.buf, radio := { s.radio with rxProg := some (f, i + 1) } } ∧
        ∀ a, t.byteAt .buf a = if a = i then f.body.getD i 0x00#8 else s.byteAt .buf a) ∧
      (s.radio.state = .rx → s.radio.rxProg = some (f, i) → i < f.body.length → 258 ≤ i →
        exec .radioRxStore s = .fault (.outsideStore .buf i)) ∧
      (s.radio.state ≠ .rx ∨ s.radio.rxProg = none ∨ (s.radio.rxProg = some (f, i) ∧ f.body.length ≤ i) →
        exec .radioRxStore s = .next s)

/-- `RADIO_RX_END`: the bytes past the body are any draw, the body stays; payload, end and the CRC's flag are set; by the
shortcut the radio is Disabled and the flag says so; while no whole body is stored, or with a draw of another length, there
is no step (44_radio.md R238, R239, R224; log 8, log 9). -/
def Obligations.RadioRxEndChecksTheCrc : Prop :=
  (∀ (s : State) (f : Frame) (tail covered : List Byte) (pass : Bool),
    s.radio.state = .rx → s.radio.rxProg = some (f, f.body.length) → f.body.length ≤ 258 →
    tail.length = 258 - f.body.length →
    covered = (if s.par.crcCoversAddress then f.addr.pfx :: f.addr.base.toList else []) ++ f.body →
    pass = decide (f.crc = crc24 s.par.bitOrder s.radio.conf.crcPoly s.radio.conf.crcInit covered) →
      ∃ t, exec (.radioRxEnd tail) s = .next t ∧
        t =
          { s with
            buf := t.buf,
            radio :=
              { s.radio with
                rxProg := none, state := if s.radio.shorts.endDisable then .disabled else .rx,
                ev :=
                  { s.radio.ev with
                    payload := true, ended := true, disabled := s.radio.ev.disabled || s.radio.shorts.endDisable,
                    crcok := s.radio.ev.crcok || pass, crcerror := s.radio.ev.crcerror || !pass } } } ∧
        ∀ a, t.byteAt .buf a =
          if f.body.length ≤ a ∧ a < 258 then tail.getD (a - f.body.length) 0x00#8 else s.byteAt .buf a) ∧
    ∀ (s : State) (tail : List Byte),
      (∀ f, s.radio.state = .rx → s.radio.rxProg = some (f, f.body.length) → tail.length ≠ 258 - f.body.length) →
        exec (.radioRxEnd tail) s = .next s

/-- A reception stores the whole body, first byte first, and no other byte of `BUF` (44_radio.md R237, R240). -/
def Obligations.ReceptionStoresTheWholeBody : Prop :=
  ∀ (s : State) (f : Frame) (ts : List Turn),
    s.radio.state = .rx → s.radio.rxProg = some (f, 0) → bodyWf f.body = true →
      s.turns = List.replicate f.body.length (.agent .radioRxStore) ++ ts →
        ∃ t, Host.Core.run Sys2Proof.core f.body.length s = .next t ∧
          t =
            { s with
              buf := t.buf, turns := ts, radio := { s.radio with rxProg := some (f, f.body.length) } } ∧
          ∀ a, t.byteAt .buf a = f.body.getD a (s.byteAt .buf a)

/-- A frame captured by one radio and delivered unchanged passes the CRC check of a radio with the same parameters
(44_radio.md R239). -/
def Obligations.UnchangedFramePassesTheCrc : Prop :=
  ∀ (s t r : State) (f : Frame) (tail : List Byte),
    s.radio.dir = .tx → s.radio.state = .ready → s.radio.shorts.readyStart = true → s.hfclk = true →
    exec .radioRamp s = .next t → t.radio.txProg = some f →
    r.radio.conf = s.radio.conf → r.par.bitOrder = s.par.bitOrder → r.par.crcCoversAddress = s.par.crcCoversAddress →
    r.radio.state = .rx → r.radio.rxProg = some (f, f.body.length) → tail.length = 258 - f.body.length →
      ∃ u, exec (.radioRxEnd tail) r = .next u ∧ u.radio.ev.crcok = true ∧
        u.radio.ev.crcerror = r.radio.ev.crcerror

/-- The air: ENV delivers an emitted frame, with any body of a fitting length byte and any crc but the same address, to
this radio if it listens, or drops it; the sender's other state is untouched (44_radio.md R230, R235, R236; that one
delivery takes the frame out of the air is log 18); with no such frame there is no step (log 9). -/
def Obligations.AirDeliversOrDrops : Prop :=
  ∀ (s : State) (n : Nat) (f : Frame) (body : List Byte) (crc : BitVec 24) (rssi : Rssi),
    (s.air[n]? = none →
      exec (.envAirDrop n) s = .next s ∧ exec (.envAirDeliver n body crc rssi) s = .next s) ∧
      (s.air[n]? = some f →
        exec (.envAirDrop n) s = .next { s with air := s.air.eraseIdx n } ∧
          (bodyWf body = true → s.radio.state = .rx → s.radio.rxProg = none → f.addr = s.radio.conf.addr →
            exec (.envAirDeliver n body crc rssi) s =
              .next
                { s with
                  air := s.air.eraseIdx n,
                  radio :=
                    { s.radio with
                      ev := { s.radio.ev with address := true }, rssi := rssi,
                      rxProg := some ({ addr := f.addr, body := body, crc := crc }, 0) } }) ∧
          (bodyWf body = true → s.radio.state = .rx → s.radio.rxProg = none → f.addr ≠ s.radio.conf.addr →
            exec (.envAirDeliver n body crc rssi) s =
              .next
                { s with
                  air := s.air.eraseIdx n, radio := { s.radio with ev := { s.radio.ev with addrmiss := true } } }) ∧
          (bodyWf body = true → ¬ (s.radio.state = .rx ∧ s.radio.rxProg = none) →
            exec (.envAirDeliver n body crc rssi) s = .next { s with air := s.air.eraseIdx n }) ∧
          (bodyWf body = false → exec (.envAirDeliver n body crc rssi) s = .next s))

/-! ### The codec -/

/-- The first host step of `CODEC_ENCODE_ENC(R)` and of `SEND_ENCRYPTED(R)`: the record stands in `SIN` behind its header
and the first generation is started; a record that is not well typed or too long, or a busy generator, is refused
(45_codec.md R276, R277; 30_encoding.md R110, R129; that the rest stands in the host's tasks is log 15). -/
def Obligations.EncryptedEncodeBegins : Prop :=
  ∀ (r : Record) (s : State) (i : Instr) (after : List Task),
    (i, after) ∈ [(Instr.codecEncodeEnc r, []),
      (.sendEncrypted r,
        [Task.op .hfclkStart, .sendPacket, .op .waitTxDone, .op .radioDisable, .op .radioEventResetAll,
          .op .hfclkStop])] →
      (typeFields s.par.typeTable r.type = some r.fields.length ∧ 18 + r.fields.length ≤ 240 ∧
          s.rng.hd.phase = .idle →
        ∃ t, exec i s = .next t ∧
          t =
            { s with
              sin := t.sin, rng := { s.rng with hd := { s.rng.hd with inten := true, phase := .active } },
              host :=
                { s.host with
                  result := .ok .unit, todo := nonceTasks ++ (.encodeFinish r :: (after ++ s.host.todo)) } } ∧
          ∀ a, t.byteAt .sin a =
            (0x00#8 :: BitVec.ofNat 8 (18 + r.fields.length) :: 0x00#8 :: ser r).getD a (s.byteAt .sin a)) ∧
      (¬ (typeFields s.par.typeTable r.type = some r.fields.length ∧ 18 + r.fields.length ≤ 240 ∧
          s.rng.hd.phase = .idle) →
        ∃ why, exec i s = .next { s with refused := true, host := { s.host with result := .refused why } })

/-- `CODEC_ENCODE_ENC(R)` as a whole, cut into host steps as log 15 says: whatever the eight draws, the host gets the tag
with bit 15, the drawn nonce and the ciphertext-and-tag of `ser(R)`; `SIN` and `SOUT` hold header and content; their other
bytes and everything else are as before (45_codec.md R276). -/
def Obligations.EncryptedEncodeProducesThePacket : Prop :=
  ∀ (s : State) (r : Record) (v : Nonce) (c : List Byte) (rest : List Task) (ts : List Turn),
    s.mode ≠ .halted → s.host.todo = .op (.codecEncodeEnc r) :: rest → s.rng.hd.phase = .idle →
    s.rng.hd.done = false → typeFields s.par.typeTable r.type = some r.fields.length →
    18 + r.fields.length ≤ 240 → c = Config.ae.enc s.par.key v (ser r) →
    s.turns =
        [.host, .agent (.rngProduce v[0]), .host, .host, .agent (.rngProduce v[1]), .host, .host,
          .agent (.rngProduce v[2]), .host, .host, .agent (.rngProduce v[3]), .host, .host, .agent (.rngProduce v[4]),
          .host, .host, .agent (.rngProduce v[5]), .host, .host, .agent (.rngProduce v[6]), .host, .host,
          .agent (.rngProduce v[7]), .host, .host] ++ ts →
      ∃ t, Host.Core.run Sys2Proof.core 25 s = .next t ∧ c.length = (ser r).length + 4 ∧
        t =
          { s with
            sin := t.sin, sout := t.sout, nonce := v, mode := .running, turns := ts,
            rng := { hd := { phase := .idle, done := false, inten := false }, value := v[7] },
            host :=
              { s.host with
                todo := rest, pkt := [leBytes 2 (r.type.toNat ||| 0x8000), v.toList, c],
                result := .ok (.strings [leBytes 2 (r.type.toNat ||| 0x8000), v.toList, c]) } } ∧
        (∀ a, t.byteAt .sin a =
          (0x00#8 :: BitVec.ofNat 8 (ser r).length :: 0x00#8 :: ser r).getD a (s.byteAt .sin a)) ∧
        ∀ a, t.byteAt .sout a =
          (0x00#8 :: BitVec.ofNat 8 ((ser r).length + 4) :: 0x00#8 :: c).getD a (s.byteAt .sout a)

/-- `CODEC_ENCODE_PLAIN(R)`: its word (30_encoding.md R126); it returns tag and record, touches no scratch buffer, generator
or key, and refuses a record that is not well typed or too long (45_codec.md R279; that the host keeps the strings is
log 11). -/
def Obligations.PlainEncodeReturnsTagAndRecord : Prop :=
  ∀ (r : Record) (bs : List Byte) (s : State),
    (r.fields.length ≤ 255 →
      decodeOp (0x21#8 :: (leBytes 2 r.type.toNat ++ leBytes 8 r.deviceId.toNat ++ leBytes 4 r.partId.toNat
          ++ leBytes 4 r.seq.toNat ++ leBytes 2 r.sensorId.toNat ++ BitVec.ofNat 8 r.fields.length :: r.fields ++ bs))
        = .ok (.codecEncodePlain r, bs)) ∧
    (typeFields s.par.typeTable r.type = some r.fields.length ∧ 18 + r.fields.length ≤ 252 →
      exec (.codecEncodePlain r) s =
        .next
          { s with
            host :=
              { s.host with
                pkt := [leBytes 2 r.type.toNat, ser r],
                result := .ok (.strings [leBytes 2 r.type.toNat, ser r]) } }) ∧
      (¬ (typeFields s.par.typeTable r.type = some r.fields.length ∧ 18 + r.fields.length ≤ 252) →
        ∃ why, exec (.codecEncodePlain r) s =
          .next { s with refused := true, host := { s.host with result := .refused why } })

/-- `CODEC_DECODE(V)`, branch by branch in the order of 60_exceptions.md R345, and what each branch writes (45_codec.md R281
to R287, R344). A payload is read through the current view or inline (20_memory.md R91); with fewer than two bytes it is
`Malformed`; otherwise it is of one of the two packet layouts and does what that layout's instruction does (log 13).
Encrypted: with no whole nonce nothing is touched, with no whole tag only the nonce is written, then `SIN` holds the
ciphertext-and-tag behind its header and `SOUT` is zero or holds the plaintext behind its header. Plaintext: no buffer, key
or nonce. -/
def Obligations.DecodeChecksInOrder : Prop :=
  (∀ (v : Payload) (V : List Byte) (s : State),
    V =
        (match v with
        | .view =>
          match s.host.view with
          | none => []
          | some (offset, length) => (List.range length).map fun j => s.byteAt .buf (offset + j)
        | .inline bytes => bytes) →
      (V.length < 2 →
        exec (.codecDecode v) s = .next { s with host := { s.host with result := .err .malformed } }) ∧
      (∀ ty content, V = leBytes 2 (ty.toNat ||| 0x8000) ++ content →
        ∃ t, exec (.codecDecode v) s = .next t ∧ exec (.pktEnc ty content) s = .next t) ∧
      (∀ ty content, V = leBytes 2 ty.toNat ++ content →
        ∃ t, exec (.codecDecode v) s = .next t ∧ exec (.pktPlain ty content) s = .next t) ∧
      (2 ≤ V.length →
        ∃ (ty : BitVec 15) (content : List Byte),
          V = leBytes 2 (ty.toNat ||| 0x8000) ++ content ∨ V = leBytes 2 ty.toNat ++ content)) ∧
  (∀ (ty : BitVec 15) (content c : List Byte) (s : State),
    c = (content.drop 8).take (min (content.length - 8) 254) →
      (content.length < 8 →
        exec (.pktEnc ty content) s = .next { s with host := { s.host with result := .err .malformed } }) ∧
      (8 ≤ content.length → c.length < 4 →
        exec (.pktEnc ty content) s =
          .next { s with nonce := nonceOf content, host := { s.host with result := .err .malformed } }) ∧
      (8 ≤ content.length → 4 ≤ c.length →
        ∃ t, exec (.pktEnc ty content) s = .next t ∧
          t =
            { s with
              sin := t.sin, sout := t.sout, nonce := nonceOf content,
              host :=
                { s.host with
                  result :=
                    match Config.ae.dec s.par.key (nonceOf content) c with
                    | none => .err .authFail
                    | some p =>
                      match parse s.par.typeTable ty p with
                      | none => .err .malformed
                      | some r => .ok (.record r) } } ∧
          (∀ a, t.byteAt .sin a = (0x00#8 :: BitVec.ofNat 8 c.length :: 0x00#8 :: c).getD a (s.byteAt .sin a)) ∧
          ∀ a, t.byteAt .sout a =
            match Config.ae.dec s.par.key (nonceOf content) c with
            | none => if a < 257 then 0x00#8 else s.byteAt .sout a
            | some p => (0x00#8 :: BitVec.ofNat 8 (c.length - 4) :: 0x00#8 :: p).getD a (s.byteAt .sout a))) ∧
  ∀ (ty : BitVec 15) (content : List Byte) (s : State),
    (s.par.acceptPlaintext = false →
      exec (.pktPlain ty content) s = .next { s with host := { s.host with result := .err .plaintextRejected } }) ∧
    (s.par.acceptPlaintext = true →
      exec (.pktPlain ty content) s =
        .next
          { s with
            host :=
              { s.host with
                result :=
                  match parse s.par.typeTable ty content with
                  | none => .err .malformed
                  | some r => .ok (.record r) } })

/-- Decoding undoes encoding: the encrypted packet of every well-typed record, under any key and nonce, decodes to that
record, inline and through the view `RADIO_PAYLOAD` gives of the `BUF` that `RADIO_START_TX` fills with its strings; and
so does the plaintext packet where plaintext is accepted (45_codec.md R291; which view is the current one is log 17). -/
def Obligations.DecodeUndoesEncode : Prop :=
  ∀ (r : Record) (n : Nonce) (s : State), typeFields s.par.typeTable r.type = some r.fields.length →
    (ser r).length ≤ 240 →
      (∃ t, exec (.codecDecode (.inline
            (leBytes 2 (r.type.toNat ||| 0x8000) ++ n.toList ++ Config.ae.enc s.par.key n (ser r)))) s = .next t ∧
        t.host.result = .ok (.record r) ∧ t.nonce = n) ∧
      (s.radio.cfg = .txCfg → s.radio.state = .disabled →
        ∃ t t' u,
          exec (.radioStartTx [leBytes 2 (r.type.toNat ||| 0x8000), n.toList, Config.ae.enc s.par.key n (ser r)]) s
              = .next t ∧
            exec .radioPayload t = .next t' ∧ exec (.codecDecode .view) t' = .next u ∧ u.host.result = .ok (.record r)) ∧
      (s.par.acceptPlaintext = true →
        ∃ t, exec (.codecDecode (.inline (leBytes 2 r.type.toNat ++ ser r))) s = .next t ∧
          t.host.result = .ok (.record r))

/-- A failed authentication leaks nothing: for every construction, when it rejects the ciphertext, the decoder's outcome is
the failure alone, every byte of `SOUT` is zero, `SIN` holds the header and the ciphertext, and nothing else changes but
the nonce (45_codec.md R285). The machine's decoder is that of `Config.ae`, for a view, inline bytes and the encrypted
packet alike (that the packet is an instruction is log 13; which view is the current one is log 17). -/
def Obligations.FailedAuthenticationLeaksNothing : Prop :=
  (∀ (ae : AE) (ty : BitVec 15) (content c : List Byte) (s : State),
    c = (content.drop 8).take (min (content.length - 8) 254) → 8 ≤ content.length → 4 ≤ c.length →
      ae.dec s.par.key (nonceOf content) c = none →
        ∃ t, decodePayload ae (leBytes 2 (ty.toNat ||| 0x8000) ++ content) s = t ∧ decodeEnc ae ty content s = t ∧
          t =
            { s with
              sin := t.sin, sout := t.sout, nonce := nonceOf content,
              host := { s.host with result := .err .authFail } } ∧
          (∀ a, a < 257 → t.byteAt .sout a = 0x00#8) ∧
          ∀ a, t.byteAt .sin a =
            (0x00#8 :: BitVec.ofNat 8 c.length :: 0x00#8 :: c).getD a (s.byteAt .sin a)) ∧
  ∀ (ty : BitVec 15) (content bytes : List Byte) (s : State),
    exec (.codecDecode (.inline bytes)) s = .next (decodePayload Config.ae bytes s) ∧
      exec (.codecDecode .view) s = .next (decodePayload Config.ae (viewBytes s) s) ∧
        exec (.pktEnc ty content) s = .next (decodeEnc Config.ae ty content s)

/-! ### Pseudo-operations and the host's sequences -/

/-- `WAIT_TX_DONE` reads flag 7 again until it is true, without sleeping; `WAIT_RX` is held, asleep, until the latch is set
(30_encoding.md R129, 46_host_sequences.md R319, R326). That the next read stands in the host's tasks is log 15; that a held
host is a next state with the wait queued again is log 12. -/
def Obligations.HostWaitsForTheRadio : Prop :=
  ∀ s : State,
    (s.radio.ev.disabled = true →
      exec .waitTxDone s = .next { s with host := { s.host with result := .ok (.flag true) } }) ∧
      (s.radio.ev.disabled = false →
        exec .waitTxDone s =
          .next
            { s with host := { s.host with todo := .op .waitTxDone :: s.host.todo, result := .ok (.flag false) } }) ∧
      (s.radio.rxLatch ≠ .noRx →
        exec .waitRx s = .next { s with mode := .running, host := { s.host with result := .ok .unit } }) ∧
      (s.radio.rxLatch = .noRx →
        exec .waitRx s =
          .next
            { s with
              mode := .sleeping, host := { s.host with todo := .op .waitRx :: s.host.todo, result := .held } })

/-- `BLOCKING(P, args)` is `P_START(args)` and then `P_WAIT` (30_encoding.md R129; that the wait stands in the host's tasks
is log 15): where the start is accepted, its effect and the wait queued; where it is refused, only the mark and its
record, and no wait. -/
def Obligations.BlockingStartsThenWaits : Prop :=
  ∀ (s : State) (ticks compare : BitVec 32) (addr rlen : Byte) (wdata : List Byte),
    (s.timer.hd.phase = .idle → 1 ≤ ticks.toNat → ticks.toNat < 2 ^ s.par.timerWidth →
      exec (.blocking (.timer ticks)) s =
        .next
          { s with
            timer :=
              { hd := { s.timer.hd with inten := true, phase := .active }, counter := 0, target := ticks.toNat,
                running := true },
            host := { s.host with result := .ok .unit, todo := .op .timerWait :: s.host.todo } }) ∧
      (s.rtc.hd.phase = .idle → compare.toNat < 2 ^ s.par.rtcWidth →
        exec (.blocking (.rtc compare)) s =
          .next
            { s with
              rtc :=
                { hd := { s.rtc.hd with inten := true, phase := .active }, counter := 0, compare := compare.toNat,
                  running := true },
              host := { s.host with result := .ok .unit, todo := .op .rtcWait :: s.host.todo } }) ∧
      (s.rng.hd.phase = .idle →
        exec (.blocking .rng) s =
          .next
            { s with
              rng := { s.rng with hd := { s.rng.hd with inten := true, phase := .active } },
              host := { s.host with result := .ok .unit, todo := .op .rngWait :: s.host.todo } }) ∧
      (s.i2c.hd.phase = .idle → s.i2c.enabled = true → addr.toNat < 128 → wdata.length ≤ 255 →
        1 ≤ wdata.length + rlen.toNat →
        exec (.blocking (.i2c addr wdata rlen)) s =
          .next
            { s with
              i2c :=
                { s.i2c with
                  hd := { s.i2c.hd with inten := true, phase := .active },
                  txn := some { addr := BitVec.ofNat 7 addr.toNat, wdata := wdata, rlen := rlen.toNat }, rdata := [],
                  err := .noError },
              host := { s.host with result := .ok .unit, todo := .op .i2cWait :: s.host.todo } }) ∧
      ∀ c,
        (match c with
          | .timer n => ¬ (s.timer.hd.phase = .idle ∧ 1 ≤ n.toNat ∧ n.toNat < 2 ^ s.par.timerWidth)
          | .rtc n => ¬ (s.rtc.hd.phase = .idle ∧ n.toNat < 2 ^ s.par.rtcWidth)
          | .rng => ¬ s.rng.hd.phase = .idle
          | .i2c a w r =>
            ¬ (s.i2c.hd.phase = .idle ∧ s.i2c.enabled = true ∧ a.toNat < 128 ∧ w.length ≤ 255 ∧
              1 ≤ w.length + r.toNat)) →
          ∃ why, exec (.blocking c) s =
            .next { s with refused := true, host := { s.host with result := .refused why } }

/-- Assembling: the record carries the device's identity and the current sequence index, which is then incremented modulo
2^32 (46_host_sequences.md R318; that the identity stands among the parameters is log 5, that assembling is a task of the
host is log 21). -/
def Obligations.AssemblingUsesThenIncrements : Prop :=
  ∀ (s : State) (ts : List Turn) (ty : BitVec 15) (x : BitVec 16) (f : List Byte) (rest : List Task)
    (r : Record),
    s.turns = .host :: ts → s.mode ≠ .halted → s.host.todo = .assemble ty x f :: rest →
      r =
          { type := ty, deviceId := s.par.deviceId, partId := s.par.partId, seq := s.seq, sensorId := x, fields := f } →
        step s =
          .next
            { s with
              turns := ts, seq := BitVec.ofNat 32 ((s.seq.toNat + 1) % 2 ^ 32),
              host := { s.host with todo := rest, record := some r, result := .ok (.record r) } }

/-- The host's sequences step by step (that they are tasks of the host is log 21). The boot read is that of the
configuration word (70_reset_and_hazards.md R383, R385; log 13). An unhandled bus or sensor failure halts
the device, and below the battery threshold the host only repeats `RTC_START` and `RTC_WAIT` (46_host_sequences.md R315,
R317). The node's loop is the pass of R313 and itself again; a pass takes the inputs supplied for it, or a free value when
none are (log 28, log 31), so that the loop goes on. The gateway looks only at a good reception, decodes only a
payload it has a view of, forwards a decoded record and nothing for a failure; and no other step forwards anything (R325,
R328, 45_codec.md R288). -/
def Obligations.UnhandledFailureHaltsAndLowBatteryIsFailDead : Prop :=
  (∀ (s : State) (ts : List Turn) (rest : List Task),
    s.turns = .host :: ts → s.mode ≠ .halted →
      (∀ e, s.host.todo = .haltOnFailure :: rest → s.host.result = .err e →
        e ∈ [Failure.i2cNack, .i2cBus, .sensorTimeout, .sensorCrc] →
        step s = .next { s with turns := ts, mode := .halted, host := { s.host with todo := rest } }) ∧
      (∀ f e, s.host.todo = .sensorReport f :: rest →
        (f, e) ∈ [(some SensorFault.timeout, Result.err .sensorTimeout), (some .crc, .err .sensorCrc),
          (none, .ok .unit)] →
        step s = .next { s with turns := ts, host := { s.host with todo := rest, result := e } }) ∧
      (∀ v, s.host.todo = .battery v :: rest → v < s.par.lowBatt →
        step s = .next { s with turns := ts, host := { s.host with todo := [.lowBattery] } }) ∧
      (∀ v, s.host.todo = .battery v :: rest → s.par.lowBatt ≤ v →
        step s = .next { s with turns := ts, host := { s.host with todo := rest } }) ∧
      (s.host.todo = .lowBattery :: rest →
        step s =
          .next
            { s with
              turns := ts,
              host :=
                { s.host with
                  todo := .op (.rtcStart s.par.rtcPeriod) :: .op .rtcWait :: .lowBattery :: rest } }) ∧
      (s.host.todo = .nodeLoop :: rest →
        step s =
          .next
            { s with
              turns := ts,
              host :=
                { s.host with
                  todo :=
                    .op (.rtcStart s.par.rtcPeriod) :: .op .rtcWait :: .op .i2cEnable :: .nodeSample :: rest } }) ∧
      (∀ c cs n, s.host.todo = .nodeSample :: rest →
        ((s.host.inputs = c :: cs ∧ n = s.host.passes) ∨
          (s.host.inputs = [] ∧ cs = [] ∧ c = Config.passInputs s.host.passes ∧ n = s.host.passes + 1)) →
        step s =
          .next
            { s with
              turns := ts,
              host :=
                { s.host with
                  inputs := cs, passes := n,
                  todo :=
                    (c.reads.flatMap fun x =>
                        [.op (.i2cStart x.addr x.wdata x.rlen), .op .i2cWait, .haltOnFailure, .sensorReport x.report,
                          .haltOnFailure]) ++
                      [.op .i2cDisable, .battery c.battery,
                        .assemble c.type c.sensorId c.fields, .encodeRecord, .op .hfclkStart, .sendPacket,
                        .op .waitTxDone, .op .radioDisable, .op .radioEventResetAll, .op .hfclkStop, .nodeLoop] ++
                      rest } }) ∧
      (s.host.todo = .bootRead :: rest →
        step s = exec (decodeConfig s.par.cfgword) { s with turns := ts, host := { s.host with todo := rest } }) ∧
      (∀ r, s.host.todo = .encodeRecord :: rest → s.host.record = some r →
        step s =
          exec (if s.par.secureBuild = true then .codecEncodeEnc r else .codecEncodePlain r)
            { s with turns := ts, host := { s.host with todo := rest } }) ∧
      (s.host.todo = .sendPacket :: rest →
        step s = exec (.radioStartTx s.host.pkt) { s with turns := ts, host := { s.host with todo := rest } }) ∧
      (∀ latch rssi, s.host.todo = .gatewayCheck :: rest → s.host.result = .ok (.reception latch rssi) →
        step s =
          .next
            { s with
              turns := ts,
              host :=
                if latch = .rxGood then
                  { s.host with todo := .op .radioPayload :: .gatewayView :: rest, rssi := rssi }
                else { s.host with todo := rest } }) ∧
      (∀ v, s.host.todo = .gatewayView :: rest → s.host.result = .ok (.view v) →
        step s =
          .next
            { s with
              turns := ts,
              host :=
                { s.host with
                  todo := if v = none then rest else .op (.codecDecode .view) :: .gatewayForward :: rest } }) ∧
      (∀ r, s.host.todo = .gatewayForward :: rest → s.host.result = .ok (.record r) →
        step s =
          .next
            { s with
              turns := ts,
              host :=
                { s.host with
                  todo := rest,
                  forwarded :=
                    s.host.forwarded ++
                      [{ deviceId := r.deviceId, seq := r.seq, sensorId := r.sensorId, fields := r.fields,
                         rssi := s.host.rssi }] } }) ∧
      (∀ e, s.host.todo = .gatewayForward :: rest → s.host.result = .err e →
        step s = .next { s with turns := ts, host := { s.host with todo := rest } })) ∧
  ∀ s t : State, step s = .next t →
    t.host.forwarded = s.host.forwarded ∨
      ∃ ts rest r x, s.turns = .host :: ts ∧ s.host.todo = .gatewayForward :: rest ∧
        s.host.result = .ok (.record r) ∧ t.host.forwarded = s.host.forwarded ++ [x]
end

