-- ==== Sys2Proof/Laws/State.lean ====
section
/-! SUPPORT. One lemma per field per update of State, and every shared operation written out as one record update, so that
no later proof unfolds them. -/

namespace Sys2Proof.Machine

/-! ### What each update leaves and writes -/

@[simp] theorem State.setTimer_timer (s : State) (x) : (s.setTimer x).timer = x := rfl
@[simp] theorem State.setTimer_rtc (s : State) (x) : (s.setTimer x).rtc = s.rtc := rfl
@[simp] theorem State.setTimer_i2c (s : State) (x) : (s.setTimer x).i2c = s.i2c := rfl
@[simp] theorem State.setTimer_rng (s : State) (x) : (s.setTimer x).rng = s.rng := rfl
@[simp] theorem State.setTimer_radio (s : State) (x) : (s.setTimer x).radio = s.radio := rfl
@[simp] theorem State.setTimer_buf (s : State) (x) : (s.setTimer x).buf = s.buf := rfl
@[simp] theorem State.setTimer_sin (s : State) (x) : (s.setTimer x).sin = s.sin := rfl
@[simp] theorem State.setTimer_sout (s : State) (x) : (s.setTimer x).sout = s.sout := rfl
@[simp] theorem State.setTimer_nonce (s : State) (x) : (s.setTimer x).nonce = s.nonce := rfl
@[simp] theorem State.setTimer_seq (s : State) (x) : (s.setTimer x).seq = s.seq := rfl
@[simp] theorem State.setTimer_mode (s : State) (x) : (s.setTimer x).mode = s.mode := rfl
@[simp] theorem State.setTimer_hfclk (s : State) (x) : (s.setTimer x).hfclk = s.hfclk := rfl
@[simp] theorem State.setTimer_refused (s : State) (x) : (s.setTimer x).refused = s.refused := rfl
@[simp] theorem State.setTimer_par (s : State) (x) : (s.setTimer x).par = s.par := rfl
@[simp] theorem State.setTimer_host (s : State) (x) : (s.setTimer x).host = s.host := rfl
@[simp] theorem State.setTimer_turns (s : State) (x) : (s.setTimer x).turns = s.turns := rfl
@[simp] theorem State.setTimer_air (s : State) (x) : (s.setTimer x).air = s.air := rfl

@[simp] theorem State.setRtc_timer (s : State) (x) : (s.setRtc x).timer = s.timer := rfl
@[simp] theorem State.setRtc_rtc (s : State) (x) : (s.setRtc x).rtc = x := rfl
@[simp] theorem State.setRtc_i2c (s : State) (x) : (s.setRtc x).i2c = s.i2c := rfl
@[simp] theorem State.setRtc_rng (s : State) (x) : (s.setRtc x).rng = s.rng := rfl
@[simp] theorem State.setRtc_radio (s : State) (x) : (s.setRtc x).radio = s.radio := rfl
@[simp] theorem State.setRtc_buf (s : State) (x) : (s.setRtc x).buf = s.buf := rfl
@[simp] theorem State.setRtc_sin (s : State) (x) : (s.setRtc x).sin = s.sin := rfl
@[simp] theorem State.setRtc_sout (s : State) (x) : (s.setRtc x).sout = s.sout := rfl
@[simp] theorem State.setRtc_nonce (s : State) (x) : (s.setRtc x).nonce = s.nonce := rfl
@[simp] theorem State.setRtc_seq (s : State) (x) : (s.setRtc x).seq = s.seq := rfl
@[simp] theorem State.setRtc_mode (s : State) (x) : (s.setRtc x).mode = s.mode := rfl
@[simp] theorem State.setRtc_hfclk (s : State) (x) : (s.setRtc x).hfclk = s.hfclk := rfl
@[simp] theorem State.setRtc_refused (s : State) (x) : (s.setRtc x).refused = s.refused := rfl
@[simp] theorem State.setRtc_par (s : State) (x) : (s.setRtc x).par = s.par := rfl
@[simp] theorem State.setRtc_host (s : State) (x) : (s.setRtc x).host = s.host := rfl
@[simp] theorem State.setRtc_turns (s : State) (x) : (s.setRtc x).turns = s.turns := rfl
@[simp] theorem State.setRtc_air (s : State) (x) : (s.setRtc x).air = s.air := rfl

@[simp] theorem State.setI2c_timer (s : State) (x) : (s.setI2c x).timer = s.timer := rfl
@[simp] theorem State.setI2c_rtc (s : State) (x) : (s.setI2c x).rtc = s.rtc := rfl
@[simp] theorem State.setI2c_i2c (s : State) (x) : (s.setI2c x).i2c = x := rfl
@[simp] theorem State.setI2c_rng (s : State) (x) : (s.setI2c x).rng = s.rng := rfl
@[simp] theorem State.setI2c_radio (s : State) (x) : (s.setI2c x).radio = s.radio := rfl
@[simp] theorem State.setI2c_buf (s : State) (x) : (s.setI2c x).buf = s.buf := rfl
@[simp] theorem State.setI2c_sin (s : State) (x) : (s.setI2c x).sin = s.sin := rfl
@[simp] theorem State.setI2c_sout (s : State) (x) : (s.setI2c x).sout = s.sout := rfl
@[simp] theorem State.setI2c_nonce (s : State) (x) : (s.setI2c x).nonce = s.nonce := rfl
@[simp] theorem State.setI2c_seq (s : State) (x) : (s.setI2c x).seq = s.seq := rfl
@[simp] theorem State.setI2c_mode (s : State) (x) : (s.setI2c x).mode = s.mode := rfl
@[simp] theorem State.setI2c_hfclk (s : State) (x) : (s.setI2c x).hfclk = s.hfclk := rfl
@[simp] theorem State.setI2c_refused (s : State) (x) : (s.setI2c x).refused = s.refused := rfl
@[simp] theorem State.setI2c_par (s : State) (x) : (s.setI2c x).par = s.par := rfl
@[simp] theorem State.setI2c_host (s : State) (x) : (s.setI2c x).host = s.host := rfl
@[simp] theorem State.setI2c_turns (s : State) (x) : (s.setI2c x).turns = s.turns := rfl
@[simp] theorem State.setI2c_air (s : State) (x) : (s.setI2c x).air = s.air := rfl

@[simp] theorem State.setRng_timer (s : State) (x) : (s.setRng x).timer = s.timer := rfl
@[simp] theorem State.setRng_rtc (s : State) (x) : (s.setRng x).rtc = s.rtc := rfl
@[simp] theorem State.setRng_i2c (s : State) (x) : (s.setRng x).i2c = s.i2c := rfl
@[simp] theorem State.setRng_rng (s : State) (x) : (s.setRng x).rng = x := rfl
@[simp] theorem State.setRng_radio (s : State) (x) : (s.setRng x).radio = s.radio := rfl
@[simp] theorem State.setRng_buf (s : State) (x) : (s.setRng x).buf = s.buf := rfl
@[simp] theorem State.setRng_sin (s : State) (x) : (s.setRng x).sin = s.sin := rfl
@[simp] theorem State.setRng_sout (s : State) (x) : (s.setRng x).sout = s.sout := rfl
@[simp] theorem State.setRng_nonce (s : State) (x) : (s.setRng x).nonce = s.nonce := rfl
@[simp] theorem State.setRng_seq (s : State) (x) : (s.setRng x).seq = s.seq := rfl
@[simp] theorem State.setRng_mode (s : State) (x) : (s.setRng x).mode = s.mode := rfl
@[simp] theorem State.setRng_hfclk (s : State) (x) : (s.setRng x).hfclk = s.hfclk := rfl
@[simp] theorem State.setRng_refused (s : State) (x) : (s.setRng x).refused = s.refused := rfl
@[simp] theorem State.setRng_par (s : State) (x) : (s.setRng x).par = s.par := rfl
@[simp] theorem State.setRng_host (s : State) (x) : (s.setRng x).host = s.host := rfl
@[simp] theorem State.setRng_turns (s : State) (x) : (s.setRng x).turns = s.turns := rfl
@[simp] theorem State.setRng_air (s : State) (x) : (s.setRng x).air = s.air := rfl

@[simp] theorem State.setRadio_timer (s : State) (x) : (s.setRadio x).timer = s.timer := rfl
@[simp] theorem State.setRadio_rtc (s : State) (x) : (s.setRadio x).rtc = s.rtc := rfl
@[simp] theorem State.setRadio_i2c (s : State) (x) : (s.setRadio x).i2c = s.i2c := rfl
@[simp] theorem State.setRadio_rng (s : State) (x) : (s.setRadio x).rng = s.rng := rfl
@[simp] theorem State.setRadio_radio (s : State) (x) : (s.setRadio x).radio = x := rfl
@[simp] theorem State.setRadio_buf (s : State) (x) : (s.setRadio x).buf = s.buf := rfl
@[simp] theorem State.setRadio_sin (s : State) (x) : (s.setRadio x).sin = s.sin := rfl
@[simp] theorem State.setRadio_sout (s : State) (x) : (s.setRadio x).sout = s.sout := rfl
@[simp] theorem State.setRadio_nonce (s : State) (x) : (s.setRadio x).nonce = s.nonce := rfl
@[simp] theorem State.setRadio_seq (s : State) (x) : (s.setRadio x).seq = s.seq := rfl
@[simp] theorem State.setRadio_mode (s : State) (x) : (s.setRadio x).mode = s.mode := rfl
@[simp] theorem State.setRadio_hfclk (s : State) (x) : (s.setRadio x).hfclk = s.hfclk := rfl
@[simp] theorem State.setRadio_refused (s : State) (x) : (s.setRadio x).refused = s.refused := rfl
@[simp] theorem State.setRadio_par (s : State) (x) : (s.setRadio x).par = s.par := rfl
@[simp] theorem State.setRadio_host (s : State) (x) : (s.setRadio x).host = s.host := rfl
@[simp] theorem State.setRadio_turns (s : State) (x) : (s.setRadio x).turns = s.turns := rfl
@[simp] theorem State.setRadio_air (s : State) (x) : (s.setRadio x).air = s.air := rfl

@[simp] theorem State.setBuf_timer (s : State) (x) : (s.setBuf x).timer = s.timer := rfl
@[simp] theorem State.setBuf_rtc (s : State) (x) : (s.setBuf x).rtc = s.rtc := rfl
@[simp] theorem State.setBuf_i2c (s : State) (x) : (s.setBuf x).i2c = s.i2c := rfl
@[simp] theorem State.setBuf_rng (s : State) (x) : (s.setBuf x).rng = s.rng := rfl
@[simp] theorem State.setBuf_radio (s : State) (x) : (s.setBuf x).radio = s.radio := rfl
@[simp] theorem State.setBuf_buf (s : State) (x) : (s.setBuf x).buf = x := rfl
@[simp] theorem State.setBuf_sin (s : State) (x) : (s.setBuf x).sin = s.sin := rfl
@[simp] theorem State.setBuf_sout (s : State) (x) : (s.setBuf x).sout = s.sout := rfl
@[simp] theorem State.setBuf_nonce (s : State) (x) : (s.setBuf x).nonce = s.nonce := rfl
@[simp] theorem State.setBuf_seq (s : State) (x) : (s.setBuf x).seq = s.seq := rfl
@[simp] theorem State.setBuf_mode (s : State) (x) : (s.setBuf x).mode = s.mode := rfl
@[simp] theorem State.setBuf_hfclk (s : State) (x) : (s.setBuf x).hfclk = s.hfclk := rfl
@[simp] theorem State.setBuf_refused (s : State) (x) : (s.setBuf x).refused = s.refused := rfl
@[simp] theorem State.setBuf_par (s : State) (x) : (s.setBuf x).par = s.par := rfl
@[simp] theorem State.setBuf_host (s : State) (x) : (s.setBuf x).host = s.host := rfl
@[simp] theorem State.setBuf_turns (s : State) (x) : (s.setBuf x).turns = s.turns := rfl
@[simp] theorem State.setBuf_air (s : State) (x) : (s.setBuf x).air = s.air := rfl

@[simp] theorem State.setSin_timer (s : State) (x) : (s.setSin x).timer = s.timer := rfl
@[simp] theorem State.setSin_rtc (s : State) (x) : (s.setSin x).rtc = s.rtc := rfl
@[simp] theorem State.setSin_i2c (s : State) (x) : (s.setSin x).i2c = s.i2c := rfl
@[simp] theorem State.setSin_rng (s : State) (x) : (s.setSin x).rng = s.rng := rfl
@[simp] theorem State.setSin_radio (s : State) (x) : (s.setSin x).radio = s.radio := rfl
@[simp] theorem State.setSin_buf (s : State) (x) : (s.setSin x).buf = s.buf := rfl
@[simp] theorem State.setSin_sin (s : State) (x) : (s.setSin x).sin = x := rfl
@[simp] theorem State.setSin_sout (s : State) (x) : (s.setSin x).sout = s.sout := rfl
@[simp] theorem State.setSin_nonce (s : State) (x) : (s.setSin x).nonce = s.nonce := rfl
@[simp] theorem State.setSin_seq (s : State) (x) : (s.setSin x).seq = s.seq := rfl
@[simp] theorem State.setSin_mode (s : State) (x) : (s.setSin x).mode = s.mode := rfl
@[simp] theorem State.setSin_hfclk (s : State) (x) : (s.setSin x).hfclk = s.hfclk := rfl
@[simp] theorem State.setSin_refused (s : State) (x) : (s.setSin x).refused = s.refused := rfl
@[simp] theorem State.setSin_par (s : State) (x) : (s.setSin x).par = s.par := rfl
@[simp] theorem State.setSin_host (s : State) (x) : (s.setSin x).host = s.host := rfl
@[simp] theorem State.setSin_turns (s : State) (x) : (s.setSin x).turns = s.turns := rfl
@[simp] theorem State.setSin_air (s : State) (x) : (s.setSin x).air = s.air := rfl

@[simp] theorem State.setSout_timer (s : State) (x) : (s.setSout x).timer = s.timer := rfl
@[simp] theorem State.setSout_rtc (s : State) (x) : (s.setSout x).rtc = s.rtc := rfl
@[simp] theorem State.setSout_i2c (s : State) (x) : (s.setSout x).i2c = s.i2c := rfl
@[simp] theorem State.setSout_rng (s : State) (x) : (s.setSout x).rng = s.rng := rfl
@[simp] theorem State.setSout_radio (s : State) (x) : (s.setSout x).radio = s.radio := rfl
@[simp] theorem State.setSout_buf (s : State) (x) : (s.setSout x).buf = s.buf := rfl
@[simp] theorem State.setSout_sin (s : State) (x) : (s.setSout x).sin = s.sin := rfl
@[simp] theorem State.setSout_sout (s : State) (x) : (s.setSout x).sout = x := rfl
@[simp] theorem State.setSout_nonce (s : State) (x) : (s.setSout x).nonce = s.nonce := rfl
@[simp] theorem State.setSout_seq (s : State) (x) : (s.setSout x).seq = s.seq := rfl
@[simp] theorem State.setSout_mode (s : State) (x) : (s.setSout x).mode = s.mode := rfl
@[simp] theorem State.setSout_hfclk (s : State) (x) : (s.setSout x).hfclk = s.hfclk := rfl
@[simp] theorem State.setSout_refused (s : State) (x) : (s.setSout x).refused = s.refused := rfl
@[simp] theorem State.setSout_par (s : State) (x) : (s.setSout x).par = s.par := rfl
@[simp] theorem State.setSout_host (s : State) (x) : (s.setSout x).host = s.host := rfl
@[simp] theorem State.setSout_turns (s : State) (x) : (s.setSout x).turns = s.turns := rfl
@[simp] theorem State.setSout_air (s : State) (x) : (s.setSout x).air = s.air := rfl

@[simp] theorem State.setNonce_timer (s : State) (x) : (s.setNonce x).timer = s.timer := rfl
@[simp] theorem State.setNonce_rtc (s : State) (x) : (s.setNonce x).rtc = s.rtc := rfl
@[simp] theorem State.setNonce_i2c (s : State) (x) : (s.setNonce x).i2c = s.i2c := rfl
@[simp] theorem State.setNonce_rng (s : State) (x) : (s.setNonce x).rng = s.rng := rfl
@[simp] theorem State.setNonce_radio (s : State) (x) : (s.setNonce x).radio = s.radio := rfl
@[simp] theorem State.setNonce_buf (s : State) (x) : (s.setNonce x).buf = s.buf := rfl
@[simp] theorem State.setNonce_sin (s : State) (x) : (s.setNonce x).sin = s.sin := rfl
@[simp] theorem State.setNonce_sout (s : State) (x) : (s.setNonce x).sout = s.sout := rfl
@[simp] theorem State.setNonce_nonce (s : State) (x) : (s.setNonce x).nonce = x := rfl
@[simp] theorem State.setNonce_seq (s : State) (x) : (s.setNonce x).seq = s.seq := rfl
@[simp] theorem State.setNonce_mode (s : State) (x) : (s.setNonce x).mode = s.mode := rfl
@[simp] theorem State.setNonce_hfclk (s : State) (x) : (s.setNonce x).hfclk = s.hfclk := rfl
@[simp] theorem State.setNonce_refused (s : State) (x) : (s.setNonce x).refused = s.refused := rfl
@[simp] theorem State.setNonce_par (s : State) (x) : (s.setNonce x).par = s.par := rfl
@[simp] theorem State.setNonce_host (s : State) (x) : (s.setNonce x).host = s.host := rfl
@[simp] theorem State.setNonce_turns (s : State) (x) : (s.setNonce x).turns = s.turns := rfl
@[simp] theorem State.setNonce_air (s : State) (x) : (s.setNonce x).air = s.air := rfl

@[simp] theorem State.setSeq_timer (s : State) (x) : (s.setSeq x).timer = s.timer := rfl
@[simp] theorem State.setSeq_rtc (s : State) (x) : (s.setSeq x).rtc = s.rtc := rfl
@[simp] theorem State.setSeq_i2c (s : State) (x) : (s.setSeq x).i2c = s.i2c := rfl
@[simp] theorem State.setSeq_rng (s : State) (x) : (s.setSeq x).rng = s.rng := rfl
@[simp] theorem State.setSeq_radio (s : State) (x) : (s.setSeq x).radio = s.radio := rfl
@[simp] theorem State.setSeq_buf (s : State) (x) : (s.setSeq x).buf = s.buf := rfl
@[simp] theorem State.setSeq_sin (s : State) (x) : (s.setSeq x).sin = s.sin := rfl
@[simp] theorem State.setSeq_sout (s : State) (x) : (s.setSeq x).sout = s.sout := rfl
@[simp] theorem State.setSeq_nonce (s : State) (x) : (s.setSeq x).nonce = s.nonce := rfl
@[simp] theorem State.setSeq_seq (s : State) (x) : (s.setSeq x).seq = x := rfl
@[simp] theorem State.setSeq_mode (s : State) (x) : (s.setSeq x).mode = s.mode := rfl
@[simp] theorem State.setSeq_hfclk (s : State) (x) : (s.setSeq x).hfclk = s.hfclk := rfl
@[simp] theorem State.setSeq_refused (s : State) (x) : (s.setSeq x).refused = s.refused := rfl
@[simp] theorem State.setSeq_par (s : State) (x) : (s.setSeq x).par = s.par := rfl
@[simp] theorem State.setSeq_host (s : State) (x) : (s.setSeq x).host = s.host := rfl
@[simp] theorem State.setSeq_turns (s : State) (x) : (s.setSeq x).turns = s.turns := rfl
@[simp] theorem State.setSeq_air (s : State) (x) : (s.setSeq x).air = s.air := rfl

@[simp] theorem State.setMode_timer (s : State) (x) : (s.setMode x).timer = s.timer := rfl
@[simp] theorem State.setMode_rtc (s : State) (x) : (s.setMode x).rtc = s.rtc := rfl
@[simp] theorem State.setMode_i2c (s : State) (x) : (s.setMode x).i2c = s.i2c := rfl
@[simp] theorem State.setMode_rng (s : State) (x) : (s.setMode x).rng = s.rng := rfl
@[simp] theorem State.setMode_radio (s : State) (x) : (s.setMode x).radio = s.radio := rfl
@[simp] theorem State.setMode_buf (s : State) (x) : (s.setMode x).buf = s.buf := rfl
@[simp] theorem State.setMode_sin (s : State) (x) : (s.setMode x).sin = s.sin := rfl
@[simp] theorem State.setMode_sout (s : State) (x) : (s.setMode x).sout = s.sout := rfl
@[simp] theorem State.setMode_nonce (s : State) (x) : (s.setMode x).nonce = s.nonce := rfl
@[simp] theorem State.setMode_seq (s : State) (x) : (s.setMode x).seq = s.seq := rfl
@[simp] theorem State.setMode_mode (s : State) (x) : (s.setMode x).mode = x := rfl
@[simp] theorem State.setMode_hfclk (s : State) (x) : (s.setMode x).hfclk = s.hfclk := rfl
@[simp] theorem State.setMode_refused (s : State) (x) : (s.setMode x).refused = s.refused := rfl
@[simp] theorem State.setMode_par (s : State) (x) : (s.setMode x).par = s.par := rfl
@[simp] theorem State.setMode_host (s : State) (x) : (s.setMode x).host = s.host := rfl
@[simp] theorem State.setMode_turns (s : State) (x) : (s.setMode x).turns = s.turns := rfl
@[simp] theorem State.setMode_air (s : State) (x) : (s.setMode x).air = s.air := rfl

@[simp] theorem State.setHfclk_timer (s : State) (x) : (s.setHfclk x).timer = s.timer := rfl
@[simp] theorem State.setHfclk_rtc (s : State) (x) : (s.setHfclk x).rtc = s.rtc := rfl
@[simp] theorem State.setHfclk_i2c (s : State) (x) : (s.setHfclk x).i2c = s.i2c := rfl
@[simp] theorem State.setHfclk_rng (s : State) (x) : (s.setHfclk x).rng = s.rng := rfl
@[simp] theorem State.setHfclk_radio (s : State) (x) : (s.setHfclk x).radio = s.radio := rfl
@[simp] theorem State.setHfclk_buf (s : State) (x) : (s.setHfclk x).buf = s.buf := rfl
@[simp] theorem State.setHfclk_sin (s : State) (x) : (s.setHfclk x).sin = s.sin := rfl
@[simp] theorem State.setHfclk_sout (s : State) (x) : (s.setHfclk x).sout = s.sout := rfl
@[simp] theorem State.setHfclk_nonce (s : State) (x) : (s.setHfclk x).nonce = s.nonce := rfl
@[simp] theorem State.setHfclk_seq (s : State) (x) : (s.setHfclk x).seq = s.seq := rfl
@[simp] theorem State.setHfclk_mode (s : State) (x) : (s.setHfclk x).mode = s.mode := rfl
@[simp] theorem State.setHfclk_hfclk (s : State) (x) : (s.setHfclk x).hfclk = x := rfl
@[simp] theorem State.setHfclk_refused (s : State) (x) : (s.setHfclk x).refused = s.refused := rfl
@[simp] theorem State.setHfclk_par (s : State) (x) : (s.setHfclk x).par = s.par := rfl
@[simp] theorem State.setHfclk_host (s : State) (x) : (s.setHfclk x).host = s.host := rfl
@[simp] theorem State.setHfclk_turns (s : State) (x) : (s.setHfclk x).turns = s.turns := rfl
@[simp] theorem State.setHfclk_air (s : State) (x) : (s.setHfclk x).air = s.air := rfl

@[simp] theorem State.setRefused_timer (s : State) (x) : (s.setRefused x).timer = s.timer := rfl
@[simp] theorem State.setRefused_rtc (s : State) (x) : (s.setRefused x).rtc = s.rtc := rfl
@[simp] theorem State.setRefused_i2c (s : State) (x) : (s.setRefused x).i2c = s.i2c := rfl
@[simp] theorem State.setRefused_rng (s : State) (x) : (s.setRefused x).rng = s.rng := rfl
@[simp] theorem State.setRefused_radio (s : State) (x) : (s.setRefused x).radio = s.radio := rfl
@[simp] theorem State.setRefused_buf (s : State) (x) : (s.setRefused x).buf = s.buf := rfl
@[simp] theorem State.setRefused_sin (s : State) (x) : (s.setRefused x).sin = s.sin := rfl
@[simp] theorem State.setRefused_sout (s : State) (x) : (s.setRefused x).sout = s.sout := rfl
@[simp] theorem State.setRefused_nonce (s : State) (x) : (s.setRefused x).nonce = s.nonce := rfl
@[simp] theorem State.setRefused_seq (s : State) (x) : (s.setRefused x).seq = s.seq := rfl
@[simp] theorem State.setRefused_mode (s : State) (x) : (s.setRefused x).mode = s.mode := rfl
@[simp] theorem State.setRefused_hfclk (s : State) (x) : (s.setRefused x).hfclk = s.hfclk := rfl
@[simp] theorem State.setRefused_refused (s : State) (x) : (s.setRefused x).refused = x := rfl
@[simp] theorem State.setRefused_par (s : State) (x) : (s.setRefused x).par = s.par := rfl
@[simp] theorem State.setRefused_host (s : State) (x) : (s.setRefused x).host = s.host := rfl
@[simp] theorem State.setRefused_turns (s : State) (x) : (s.setRefused x).turns = s.turns := rfl
@[simp] theorem State.setRefused_air (s : State) (x) : (s.setRefused x).air = s.air := rfl

@[simp] theorem State.setPar_timer (s : State) (x) : (s.setPar x).timer = s.timer := rfl
@[simp] theorem State.setPar_rtc (s : State) (x) : (s.setPar x).rtc = s.rtc := rfl
@[simp] theorem State.setPar_i2c (s : State) (x) : (s.setPar x).i2c = s.i2c := rfl
@[simp] theorem State.setPar_rng (s : State) (x) : (s.setPar x).rng = s.rng := rfl
@[simp] theorem State.setPar_radio (s : State) (x) : (s.setPar x).radio = s.radio := rfl
@[simp] theorem State.setPar_buf (s : State) (x) : (s.setPar x).buf = s.buf := rfl
@[simp] theorem State.setPar_sin (s : State) (x) : (s.setPar x).sin = s.sin := rfl
@[simp] theorem State.setPar_sout (s : State) (x) : (s.setPar x).sout = s.sout := rfl
@[simp] theorem State.setPar_nonce (s : State) (x) : (s.setPar x).nonce = s.nonce := rfl
@[simp] theorem State.setPar_seq (s : State) (x) : (s.setPar x).seq = s.seq := rfl
@[simp] theorem State.setPar_mode (s : State) (x) : (s.setPar x).mode = s.mode := rfl
@[simp] theorem State.setPar_hfclk (s : State) (x) : (s.setPar x).hfclk = s.hfclk := rfl
@[simp] theorem State.setPar_refused (s : State) (x) : (s.setPar x).refused = s.refused := rfl
@[simp] theorem State.setPar_par (s : State) (x) : (s.setPar x).par = x := rfl
@[simp] theorem State.setPar_host (s : State) (x) : (s.setPar x).host = s.host := rfl
@[simp] theorem State.setPar_turns (s : State) (x) : (s.setPar x).turns = s.turns := rfl
@[simp] theorem State.setPar_air (s : State) (x) : (s.setPar x).air = s.air := rfl

@[simp] theorem State.setHost_timer (s : State) (x) : (s.setHost x).timer = s.timer := rfl
@[simp] theorem State.setHost_rtc (s : State) (x) : (s.setHost x).rtc = s.rtc := rfl
@[simp] theorem State.setHost_i2c (s : State) (x) : (s.setHost x).i2c = s.i2c := rfl
@[simp] theorem State.setHost_rng (s : State) (x) : (s.setHost x).rng = s.rng := rfl
@[simp] theorem State.setHost_radio (s : State) (x) : (s.setHost x).radio = s.radio := rfl
@[simp] theorem State.setHost_buf (s : State) (x) : (s.setHost x).buf = s.buf := rfl
@[simp] theorem State.setHost_sin (s : State) (x) : (s.setHost x).sin = s.sin := rfl
@[simp] theorem State.setHost_sout (s : State) (x) : (s.setHost x).sout = s.sout := rfl
@[simp] theorem State.setHost_nonce (s : State) (x) : (s.setHost x).nonce = s.nonce := rfl
@[simp] theorem State.setHost_seq (s : State) (x) : (s.setHost x).seq = s.seq := rfl
@[simp] theorem State.setHost_mode (s : State) (x) : (s.setHost x).mode = s.mode := rfl
@[simp] theorem State.setHost_hfclk (s : State) (x) : (s.setHost x).hfclk = s.hfclk := rfl
@[simp] theorem State.setHost_refused (s : State) (x) : (s.setHost x).refused = s.refused := rfl
@[simp] theorem State.setHost_par (s : State) (x) : (s.setHost x).par = s.par := rfl
@[simp] theorem State.setHost_host (s : State) (x) : (s.setHost x).host = x := rfl
@[simp] theorem State.setHost_turns (s : State) (x) : (s.setHost x).turns = s.turns := rfl
@[simp] theorem State.setHost_air (s : State) (x) : (s.setHost x).air = s.air := rfl

@[simp] theorem State.setTurns_timer (s : State) (x) : (s.setTurns x).timer = s.timer := rfl
@[simp] theorem State.setTurns_rtc (s : State) (x) : (s.setTurns x).rtc = s.rtc := rfl
@[simp] theorem State.setTurns_i2c (s : State) (x) : (s.setTurns x).i2c = s.i2c := rfl
@[simp] theorem State.setTurns_rng (s : State) (x) : (s.setTurns x).rng = s.rng := rfl
@[simp] theorem State.setTurns_radio (s : State) (x) : (s.setTurns x).radio = s.radio := rfl
@[simp] theorem State.setTurns_buf (s : State) (x) : (s.setTurns x).buf = s.buf := rfl
@[simp] theorem State.setTurns_sin (s : State) (x) : (s.setTurns x).sin = s.sin := rfl
@[simp] theorem State.setTurns_sout (s : State) (x) : (s.setTurns x).sout = s.sout := rfl
@[simp] theorem State.setTurns_nonce (s : State) (x) : (s.setTurns x).nonce = s.nonce := rfl
@[simp] theorem State.setTurns_seq (s : State) (x) : (s.setTurns x).seq = s.seq := rfl
@[simp] theorem State.setTurns_mode (s : State) (x) : (s.setTurns x).mode = s.mode := rfl
@[simp] theorem State.setTurns_hfclk (s : State) (x) : (s.setTurns x).hfclk = s.hfclk := rfl
@[simp] theorem State.setTurns_refused (s : State) (x) : (s.setTurns x).refused = s.refused := rfl
@[simp] theorem State.setTurns_par (s : State) (x) : (s.setTurns x).par = s.par := rfl
@[simp] theorem State.setTurns_host (s : State) (x) : (s.setTurns x).host = s.host := rfl
@[simp] theorem State.setTurns_turns (s : State) (x) : (s.setTurns x).turns = x := rfl
@[simp] theorem State.setTurns_air (s : State) (x) : (s.setTurns x).air = s.air := rfl

@[simp] theorem State.setAir_timer (s : State) (x) : (s.setAir x).timer = s.timer := rfl
@[simp] theorem State.setAir_rtc (s : State) (x) : (s.setAir x).rtc = s.rtc := rfl
@[simp] theorem State.setAir_i2c (s : State) (x) : (s.setAir x).i2c = s.i2c := rfl
@[simp] theorem State.setAir_rng (s : State) (x) : (s.setAir x).rng = s.rng := rfl
@[simp] theorem State.setAir_radio (s : State) (x) : (s.setAir x).radio = s.radio := rfl
@[simp] theorem State.setAir_buf (s : State) (x) : (s.setAir x).buf = s.buf := rfl
@[simp] theorem State.setAir_sin (s : State) (x) : (s.setAir x).sin = s.sin := rfl
@[simp] theorem State.setAir_sout (s : State) (x) : (s.setAir x).sout = s.sout := rfl
@[simp] theorem State.setAir_nonce (s : State) (x) : (s.setAir x).nonce = s.nonce := rfl
@[simp] theorem State.setAir_seq (s : State) (x) : (s.setAir x).seq = s.seq := rfl
@[simp] theorem State.setAir_mode (s : State) (x) : (s.setAir x).mode = s.mode := rfl
@[simp] theorem State.setAir_hfclk (s : State) (x) : (s.setAir x).hfclk = s.hfclk := rfl
@[simp] theorem State.setAir_refused (s : State) (x) : (s.setAir x).refused = s.refused := rfl
@[simp] theorem State.setAir_par (s : State) (x) : (s.setAir x).par = s.par := rfl
@[simp] theorem State.setAir_host (s : State) (x) : (s.setAir x).host = s.host := rfl
@[simp] theorem State.setAir_turns (s : State) (x) : (s.setAir x).turns = s.turns := rfl
@[simp] theorem State.setAir_air (s : State) (x) : (s.setAir x).air = x := rfl

/-! ### The outcome of an operation, written out -/

theorem State.setResult_eq (s : State) (r : Result) : s.setResult r = { s with host := { s.host with result := r } } :=
  rfl

theorem State.ok_eq (s : State) (v : Value) : s.ok v = { s with host := { s.host with result := .ok v } } := rfl

theorem State.raise_eq (s : State) (e : Failure) : s.raise e = { s with host := { s.host with result := .err e } } :=
  rfl

theorem State.refuse_eq (s : State) (why : Misuse) :
    s.refuse why = { s with refused := true, host := { s.host with result := .refused why } } := rfl

theorem State.pushTasks_eq (s : State) (ts : List Task) :
    s.pushTasks ts = { s with host := { s.host with todo := ts ++ s.host.todo } } := rfl

theorem State.hold_eq (s : State) (t : Task) :
    s.hold t = { s with mode := .sleeping, host := { s.host with todo := t :: s.host.todo, result := .held } } := rfl

theorem State.setTasks_eq (s : State) (ts : List Task) : s.setTasks ts = { s with host := { s.host with todo := ts } } :=
  rfl

theorem State.setWords_eq (s : State) (ws : List HostWord) :
    s.setWords ws = { s with host := { s.host with words := ws } } := rfl

theorem State.okStrings_eq (s : State) (xs : List (List Byte)) :
    s.okStrings xs = { s with host := { s.host with pkt := xs, result := .ok (.strings xs) } } := rfl

theorem State.okView_eq (s : State) (v : Option (Nat × Nat)) :
    s.okView v = { s with host := { s.host with view := v, result := .ok (.view v) } } := rfl

@[simp] theorem settle_ok (s t : State) : settle s (.ok t) = t := rfl

@[simp] theorem settle_error (s : State) (why : Misuse) : settle s (.error why) = s.refuse why := rfl

/-! ### The radio's tasks, written out -/

theorem State.setEvents_eq (s : State) (ev : Events) : s.setEvents ev = { s with radio := { s.radio with ev := ev } } :=
  rfl

theorem disableTask_eq (s : State) :
    disableTask s =
      { s with
        radio :=
          { s.radio with
            rxProg := none, txProg := none, state := .disabled, ev := { s.radio.ev with disabled := true } } } := rfl

theorem shortDisable_eq (s : State) :
    shortDisable s =
      { s with radio := { s.radio with state := .disabled, ev := { s.radio.ev with disabled := true } } } := rfl

theorem armRadio_eq (d : Direction) (s : State) :
    armRadio d s = { s with radio := { s.radio with pktptr := .toBuf, inten := true, dir := d, state := .ready } } :=
  rfl

theorem State.dropFrame_eq (s : State) (n : Nat) : s.dropFrame n = { s with air := s.air.eraseIdx n } := rfl

/-! ### The handles of the blocking primitive -/

@[simp] theorem State.handle_timer (s : State) : s.handle .timer = s.timer.hd := rfl
@[simp] theorem State.handle_rtc (s : State) : s.handle .rtc = s.rtc.hd := rfl
@[simp] theorem State.handle_i2c (s : State) : s.handle .i2c = s.i2c.hd := rfl
@[simp] theorem State.handle_rng (s : State) : s.handle .rng = s.rng.hd := rfl

@[simp] theorem State.setHandle_timer (s : State) (h : Handle) :
    s.setHandle .timer h = s.setTimer { s.timer with hd := h } := rfl
@[simp] theorem State.setHandle_rtc (s : State) (h : Handle) : s.setHandle .rtc h = s.setRtc { s.rtc with hd := h } :=
  rfl
@[simp] theorem State.setHandle_i2c (s : State) (h : Handle) : s.setHandle .i2c h = s.setI2c { s.i2c with hd := h } :=
  rfl
@[simp] theorem State.setHandle_rng (s : State) (h : Handle) : s.setHandle .rng h = s.setRng { s.rng with hd := h } :=
  rfl

/-- A handle reads back what was written to it. -/
theorem State.handle_setHandle_same (s : State) (p : Periph) (h : Handle) : (s.setHandle p h).handle p = h := by
  cases p <;> rfl

/-- Writing one peripheral's handle leaves every other peripheral's. -/
theorem State.handle_setHandle_other (s : State) {p q : Periph} (h : Handle) (hpq : q ≠ p) :
    (s.setHandle p h).handle q = s.handle q := by
  cases p <;> cases q <;> first | rfl | exact absurd rfl hpq

/-- What writing a handle leaves: everything but the four driver records. -/
theorem State.setHandle_frame (s : State) (p : Periph) (h : Handle) :
    s.setHandle p h =
      { s with
        timer := (s.setHandle p h).timer, rtc := (s.setHandle p h).rtc, i2c := (s.setHandle p h).i2c,
        rng := (s.setHandle p h).rng } := by
  cases p <;> rfl

theorem State.startHandle_eq (s : State) (p : Periph) :
    s.startHandle p = s.setHandle p { s.handle p with inten := true, phase := .active } := rfl

theorem State.releaseHandle_eq (s : State) (p : Periph) :
    s.releaseHandle p = s.setHandle p { phase := .idle, done := false, inten := false } := rfl

theorem State.completeHandle_eq (s : State) (p : Periph) :
    s.completeHandle p = s.setHandle p { s.handle p with done := true } := rfl

theorem genericHandler_eq (p : Periph) (s : State) :
    genericHandler p s = s.setHandle p { s.handle p with inten := false } := rfl

/-- Everything a `wait` can do: finish, be held, or be refused (40_blocking_primitive.md R143). -/
theorem waitOn_cases (p : Periph) (t : Task) (finish : State → State → State) (s : State) :
    ((s.handle p).phase = .active ∧ (s.handle p).done = true ∧
        waitOn p t finish s = finish s ((s.releaseHandle p).setMode .running)) ∨
      ((s.handle p).phase = .active ∧ (s.handle p).done = false ∧ waitOn p t finish s = s.hold t) ∨
      ((s.handle p).phase = .idle ∧ waitOn p t finish s = s.refuse (.notActive p)) := by
  unfold waitOn
  cases hp : (s.handle p).phase <;> cases hd : (s.handle p).done <;> simp

/-- Everything interrupt service can do: run the handler while the line is high, or nothing (60_exceptions.md R347). -/
theorem serviceIrq_cases (line : Bool) (handler : State → State) (s : State) :
    (line = true ∧ serviceIrq line handler s = handler s) ∨ (line = false ∧ serviceIrq line handler s = s) := by
  cases line <;> simp [serviceIrq]

/-! ### The byte stores -/

@[simp] theorem State.store_buf (s : State) : s.store .buf = s.buf := rfl
@[simp] theorem State.store_sin (s : State) : s.store .sin = s.sin := rfl
@[simp] theorem State.store_sout (s : State) : s.store .sout = s.sout := rfl

@[simp] theorem State.memWrite_buf (s : State) (a : Nat) (bs : List Byte) :
    s.memWrite .buf a bs = s.setBuf (Memory.writeBytes s.buf a bs) := rfl
@[simp] theorem State.memWrite_sin (s : State) (a : Nat) (bs : List Byte) :
    s.memWrite .sin a bs = s.setSin (Memory.writeBytes s.sin a bs) := rfl
@[simp] theorem State.memWrite_sout (s : State) (a : Nat) (bs : List Byte) :
    s.memWrite .sout a bs = s.setSout (Memory.writeBytes s.sout a bs) := rfl

theorem State.fillScratch_eq (s : State) (st : Store) (content : List Byte) :
    s.fillScratch st content = s.memWrite st 0 (0x00#8 :: BitVec.ofNat 8 content.length :: 0x00#8 :: content) := rfl

end Sys2Proof.Machine
end

