-- ==== Sys2Proof/Laws/Memory.lean ====
section
/-! SUPPORT. The byte stores: read after write, and that every memory operation keeps the canonical form. -/

namespace Sys2Proof.Machine

/-- A byte just written reads back; every other address reads as before. -/
theorem Memory.read_write (m : Memory) (a b : Nat) (v : Byte) :
    Memory.read (Memory.write m a v) b = if b = a then some v else Memory.read m b := by
  induction m with
  | nil => simp [Memory.write, Memory.read, eq_comm]
  | cons x m ih =>
    obtain ⟨k, w⟩ := x
    simp only [Memory.write]
    split
    · simp only [Memory.read]
      by_cases h : a = b <;> simp [h, eq_comm]
    · split
      · rename_i h1 h2
        subst h2
        simp only [Memory.read]
        by_cases h : a = b <;> simp [h, eq_comm]
      · rename_i h1 h2
        simp only [Memory.read, ih]
        by_cases h : k = b
        · subst h
          simp [Ne.symm h2]
        · simp [h]

/-- Reading after writing consecutive bytes: the byte written there, or what was there. -/
theorem Memory.read_writeBytes (bs : List Byte) :
    ∀ (m : Memory) (a b : Nat),
      Memory.read (Memory.writeBytes m a bs) b =
        if a ≤ b ∧ b < a + bs.length then bs[b - a]? else Memory.read m b := by
  induction bs with
  | nil =>
    intro m a b
    have : ¬ (a ≤ b ∧ b < a) := by omega
    simp [Memory.writeBytes, this]
  | cons v bs ih =>
    intro m a b
    simp only [Memory.writeBytes, ih, Memory.read_write, List.length_cons]
    by_cases h1 : b = a
    · subst h1
      simp
    · by_cases h2 : a + 1 ≤ b ∧ b < a + 1 + bs.length
      · have h3 : a ≤ b ∧ b < a + (bs.length + 1) := by omega
        have h4 : b - a = (b - (a + 1)) + 1 := by omega
        simp [h2, h3, h4]
      · have h3 : ¬ (a ≤ b ∧ b < a + (bs.length + 1)) := by omega
        rw [if_neg h2, if_neg h1, if_neg h3]

/-- Every address of a written store is the written one or an old one. -/
theorem Memory.mem_write {m : Memory} {a : Nat} {v : Byte} {x : Host.Cell} (h : x ∈ Memory.write m a v) :
    x = (a, v) ∨ x ∈ m := by
  induction m with
  | nil => simpa [Memory.write] using h
  | cons y m ih =>
    obtain ⟨k, w⟩ := y
    simp only [Memory.write] at h
    split at h
    · simpa using h
    · split at h
      · rcases List.mem_cons.mp h with rfl | h
        · exact .inl rfl
        · exact .inr (List.mem_cons_of_mem _ h)
      · rcases List.mem_cons.mp h with rfl | h
        · exact .inr List.mem_cons_self
        · rcases ih h with rfl | h
          · exact .inl rfl
          · exact .inr (List.mem_cons_of_mem _ h)

theorem Memory.wf_iff (size : Nat) (m : Memory) :
    Memory.wf size m = true ↔ m.Pairwise (fun x y => x.1 < y.1) ∧ ∀ x ∈ m, x.1 < size := by
  simp [Memory.wf]

@[simp] theorem Memory.wf_nil (size : Nat) : Memory.wf size [] = true := by simp [Memory.wf_iff]

/-- A write inside the store keeps the canonical form. -/
theorem Memory.wf_write {size : Nat} {m : Memory} {a : Nat} {v : Byte} (h : Memory.wf size m = true) (ha : a < size) :
    Memory.wf size (Memory.write m a v) = true := by
  rw [Memory.wf_iff] at h ⊢
  obtain ⟨hp, hs⟩ := h
  constructor
  · clear hs ha
    induction m with
    | nil => simp [Memory.write]
    | cons y m ih =>
      obtain ⟨k, w⟩ := y
      rw [List.pairwise_cons] at hp
      obtain ⟨hk, hm⟩ := hp
      simp only [Memory.write]
      split
      · rename_i h1
        refine List.pairwise_cons.mpr ⟨?_, List.pairwise_cons.mpr ⟨hk, hm⟩⟩
        intro x hx
        rcases List.mem_cons.mp hx with rfl | hx
        · exact h1
        · exact lt_trans h1 (hk x hx)
      · split
        · rename_i h1 h2
          subst h2
          exact List.pairwise_cons.mpr ⟨hk, hm⟩
        · rename_i h1 h2
          refine List.pairwise_cons.mpr ⟨?_, ih hm⟩
          intro x hx
          rcases Memory.mem_write hx with rfl | hx
          · exact lt_of_le_of_ne (not_lt.mp h1) (Ne.symm h2)
          · exact hk x hx
  · intro x hx
    rcases Memory.mem_write hx with rfl | hx
    · exact ha
    · exact hs x hx

/-- Consecutive bytes written inside the store keep the canonical form. -/
theorem Memory.wf_writeBytes {size : Nat} (bs : List Byte) :
    ∀ {m : Memory} {a : Nat}, Memory.wf size m = true → a + bs.length ≤ size →
      Memory.wf size (Memory.writeBytes m a bs) = true := by
  induction bs with
  | nil => intro m a h _; simpa [Memory.writeBytes] using h
  | cons v bs ih =>
    intro m a h hl
    simp only [List.length_cons] at hl
    exact ih (Memory.wf_write h (by omega)) (by omega)

theorem Memory.writeBytes_cons (m : Memory) (a : Nat) (b : Byte) (bs : List Byte) :
    Memory.writeBytes m a (b :: bs) = Memory.writeBytes (Memory.write m a b) (a + 1) bs := rfl

/-- What an operation sees of a store after `MemWrite`: the written bytes in their place, the rest as before, and every
other store untouched. -/
theorem State.byteAt_memWrite (s : State) (st st' : Store) (a b : Nat) (bs : List Byte) :
    (s.memWrite st a bs).byteAt st' b =
      if st' = st ∧ a ≤ b ∧ b < a + bs.length then bs.getD (b - a) 0x00#8 else s.byteAt st' b := by
  have key : ∀ m : Memory, (Memory.read (Memory.writeBytes m a bs) b).getD (unlisted st' b) =
      if a ≤ b ∧ b < a + bs.length then bs.getD (b - a) 0x00#8 else (Memory.read m b).getD (unlisted st' b) := by
    intro m
    rw [Memory.read_writeBytes]
    split
    · rename_i h
      have : b - a < bs.length := by omega
      simp [List.getElem?_eq_getElem this]
    · rfl
  cases st <;> cases st' <;> simp [State.byteAt, State.memWrite, State.store, key]

@[simp] theorem State.byteAt_setResult (s : State) (r : Result) (st : Store) (a : Nat) :
    (s.setResult r).byteAt st a = s.byteAt st a := by cases st <;> rfl

@[simp] theorem State.byteAt_setNonce (s : State) (n : Nonce) (st : Store) (a : Nat) :
    (s.setNonce n).byteAt st a = s.byteAt st a := by cases st <;> rfl

/-- Read after a scratch buffer is filled: header, content, and the bytes beyond it as before (30_encoding.md R110). -/
theorem State.byteAt_fillScratch (s : State) (st st' : Store) (content : List Byte) (a : Nat) :
    (s.fillScratch st content).byteAt st' a =
      if st' = st then
        (0x00#8 :: BitVec.ofNat 8 content.length :: 0x00#8 :: content).getD a (s.byteAt st' a)
      else s.byteAt st' a := by
  unfold State.fillScratch
  rw [State.byteAt_memWrite]
  generalize (0x00#8 :: BitVec.ofNat 8 content.length :: 0x00#8 :: content) = bs
  by_cases hs : st' = st <;> by_cases ha : a < bs.length <;> simp [hs, ha]

/-- The store of size `storeSize` keeps its canonical form under a `MemWrite` inside it. -/
theorem State.wf_memWrite {s : State} {st : Store} {a : Nat} {bs : List Byte}
    (h : Memory.wf (storeSize st) (s.store st) = true) (hl : a + bs.length ≤ storeSize st) :
    Memory.wf (storeSize st) ((s.memWrite st a bs).store st) = true := by
  cases st <;> exact Memory.wf_writeBytes bs h hl

@[simp] theorem State.memRead_length (s : State) (st : Store) (a n : Nat) : (s.memRead st a n).length = n := by
  simp [State.memRead]

/-- Byte `j` of a `MemRead`. -/
theorem State.memRead_getElem? (s : State) (st : Store) (a n j : Nat) (h : j < n) :
    (s.memRead st a n)[j]? = some (s.byteAt st (a + j)) := by
  simp [State.memRead, h]

/-- After power-on no byte of any store is listed, and the empty list is canonical. -/
theorem State.reset_stores_wf :
    Memory.wf 258 State.reset.buf = true ∧ Memory.wf 257 State.reset.sin = true ∧
      Memory.wf 257 State.reset.sout = true := by
  decide

end Sys2Proof.Machine
end

