-- ==== Sys2Proof/Laws/Operands.lean ====
section
/-! SUPPORT. The operand forms: little-endian bytes, counts against a width, records, and frames. -/

namespace Sys2Proof

@[simp] theorem leBytes_length (n v : Nat) : (leBytes n v).length = n := by
  induction n generalizing v with
  | zero => rfl
  | succ n ih => simp [leBytes, ih]

/-- `le` undoes `LE` up to the width (00_scope.md R16). -/
theorem leNat_leBytes (n v : Nat) : leNat (leBytes n v) = v % 256 ^ n := by
  induction n generalizing v with
  | zero => simp [leBytes, leNat, Nat.mod_one]
  | succ n ih =>
    simp only [leBytes, leNat, ih, BitVec.toNat_ofNat]
    have : (256 : Nat) ^ (n + 1) = 256 * 256 ^ n := by rw [Nat.pow_succ, Nat.mul_comm]
    rw [this, Nat.mod_mul]

/-- A value that fits `n` bytes is read back from them. -/
theorem leNat_leBytes_of_lt {n v : Nat} (h : v < 256 ^ n) : leNat (leBytes n v) = v := by
  rw [leNat_leBytes, Nat.mod_eq_of_lt h]

/-- `|ser(R)| = 18 + |fields|` (45_codec.md R273). -/
@[simp] theorem ser_length (r : Record) : (ser r).length = 18 + r.fields.length := by
  simp [ser]; omega

namespace Machine

/-- A count fits its width exactly when it is below `2^width`. -/
theorem fitsWidth_iff (width n : Nat) : fitsWidth width n = true ↔ n < 2 ^ width := by
  have : 0 < 2 ^ width := Nat.pow_pos (by decide)
  simp only [fitsWidth, Bool.or_eq_true, beq_iff_eq, decide_eq_true_eq]
  omega

theorem ticksOk_iff (s : State) (ticks : BitVec 32) :
    ticksOk s ticks = true ↔ 1 ≤ ticks.toNat ∧ ticks.toNat < 2 ^ s.par.timerWidth := by
  simp [ticksOk, fitsWidth_iff]

theorem compareOk_iff (s : State) (compare : BitVec 32) :
    compareOk s compare = true ↔ compare.toNat < 2 ^ s.par.rtcWidth := by
  simp [compareOk, fitsWidth_iff]

theorem nextCount_lt (width n : Nat) : nextCount width n < 2 ^ width :=
  Nat.mod_lt _ (Nat.pow_pos (by decide))

/-- The body captured for transmission is as long as its length byte says (30_encoding.md R116). -/
theorem bodyWf_txBody (s : State) : bodyWf (txBody s) = true := by
  obtain ⟨n, hn⟩ : ∃ n, max (s.byteAt .buf 0).toNat 1 = n + 1 := ⟨max (s.byteAt .buf 0).toNat 1 - 1, by omega⟩
  simp [txBody, State.memRead, hn, List.range_succ_eq_map, bodyWf]

/-- A body that is as long as its length byte says is never empty and at most 255 bytes long (44_radio.md R240). -/
theorem bodyWf_bounds {body : List Byte} (h : bodyWf body = true) : 1 ≤ body.length ∧ body.length ≤ 255 := by
  cases body with
  | nil => simp [bodyWf] at h
  | cons b rest =>
    have := b.isLt
    simp only [bodyWf, beq_iff_eq] at h
    simp only [List.length_cons]
    omega

/-- Everything `parse` can answer: the type exists and the length fits it (45_codec.md R273). -/
theorem parse_eq_some_iff (tt : List (BitVec 15 × Nat)) (t : BitVec 15) (p : List Byte) (r : Record) :
    parse tt t p = some r ↔ ∃ f, typeFields tt t = some f ∧ p.length = 18 + f ∧ r = recordFrom t p := by
  simp only [parse]
  cases typeFields tt t with
  | none => simp
  | some f =>
    by_cases h : p.length = 18 + f <;> simp [h, eq_comm]

/-- The ciphertext part is never longer than its clamp (45_codec.md R282). -/
theorem cipherPart_length (content : List Byte) : (cipherPart content).length = min (content.length - 8) 254 := by
  simp [cipherPart]

/-- A payload with bit 15 of its tag set is the encrypted layout (30_encoding.md R103, R112(b)). -/
theorem decodePacket_encTag (ty : BitVec 15) (content : List Byte) :
    decodePacket (leBytes 2 (encTag ty) ++ content) = .ok (.pktEnc ty content, []) := by
  have hlt := ty.isLt
  have htag : encTag ty = ty.toNat + 32768 := by
    have h := Nat.two_pow_add_eq_or_of_lt (i := 15) (b := ty.toNat) hlt 1
    unfold encTag
    rw [Nat.or_comm, show (0x8000 : Nat) = 2 ^ 15 * 1 from rfl, ← h]
    omega
  have hle := leNat_leBytes_of_lt (n := 2) (v := ty.toNat + 32768) (by omega)
  rw [htag]
  simp only [leBytes, List.cons_append, List.nil_append, decodePacket] at hle ⊢
  have hty : BitVec.ofNat 15 (ty.toNat + 32768) = ty := BitVec.eq_of_toNat_eq (by rw [BitVec.toNat_ofNat]; omega)
  rw [hle, if_neg (by omega), hty]

/-- A payload with bit 15 of its tag clear is the plaintext layout (30_encoding.md R103, R112(b)). -/
theorem decodePacket_plainTag (ty : BitVec 15) (content : List Byte) :
    decodePacket (leBytes 2 (plainTag ty) ++ content) = .ok (.pktPlain ty content, []) := by
  have hlt := ty.isLt
  have hle := leNat_leBytes_of_lt (n := 2) (v := ty.toNat) (by omega)
  simp only [plainTag, leBytes, List.cons_append, List.nil_append, decodePacket] at hle ⊢
  rw [hle, if_pos (by omega), BitVec.ofNat_toNat, BitVec.setWidth_eq]

end Machine

end Sys2Proof
end

