-- ==== Sys2Proof/Laws/Ops.lean ====
section
/-! SUPPORT. For each shared operation, once, everything it can do: what an accepted operation answers and when, and what
every operation leaves alone. Later proofs cite these and unfold no operation. -/

namespace Sys2Proof.Machine

/-- Everything the end of an operation can be: its own effect, or refusal (00_scope.md R18). -/
theorem settle_cases (s : State) (x : Except Misuse State) :
    (∃ t, x = .ok t ∧ settle s x = t) ∨ ∃ why, x = .error why ∧ settle s x = s.refuse why := by
  cases x with
  | ok t => exact .inl ⟨t, rfl, rfl⟩
  | error why => exact .inr ⟨why, rfl, rfl⟩

/-- Two states with the same store read the same bytes of it. -/
theorem State.byteAt_congr {s t : State} {st : Store} (h : t.store st = s.store st) (a : Nat) :
    t.byteAt st a = s.byteAt st a := by
  simp only [State.byteAt, h]

/-! ### The starts of the blocking primitive -/

/-- When `TIMER_START` is accepted and what it answers (41_timer_rtc.md R162). -/
theorem timerStart_ok_iff (ticks : BitVec 32) (s t : State) :
    timerStart ticks s = .ok t ↔
      s.timer.hd.phase = .idle ∧ 1 ≤ ticks.toNat ∧ ticks.toNat < 2 ^ s.par.timerWidth ∧
        t =
          { s with
            timer :=
              { hd := { s.timer.hd with inten := true, phase := .active }, counter := 0, target := ticks.toNat,
                running := true },
            host := { s.host with result := .ok .unit } } := by
  by_cases h : s.timer.hd.phase = .idle <;> by_cases hk : ticksOk s ticks = true <;>
    simp only [timerStart, h, hk, if_true, if_false] <;> rw [ticksOk_iff] at hk <;>
    simp [State.startHandle_eq, State.ok_eq, eq_comm, State.setTimer, hk]
  all_goals intros; omega

/-- When `RTC_START` is accepted and what it answers (41_timer_rtc.md R169). -/
theorem rtcStart_ok_iff (compare : BitVec 32) (s t : State) :
    rtcStart compare s = .ok t ↔
      s.rtc.hd.phase = .idle ∧ compare.toNat < 2 ^ s.par.rtcWidth ∧
        t =
          { s with
            rtc :=
              { hd := { s.rtc.hd with inten := true, phase := .active }, counter := 0, compare := compare.toNat,
                running := true },
            host := { s.host with result := .ok .unit } } := by
  by_cases h : s.rtc.hd.phase = .idle <;> by_cases hk : compareOk s compare = true <;>
    simp only [rtcStart, h, hk, if_true, if_false] <;> rw [compareOk_iff] at hk <;>
    simp [State.startHandle_eq, State.ok_eq, eq_comm, State.setRtc, hk]

/-- When `RNG_START` is accepted and what it answers (43_rng.md R202). -/
theorem rngStart_ok_iff (s t : State) :
    rngStart s = .ok t ↔
      s.rng.hd.phase = .idle ∧
        t =
          { s with
            rng := { s.rng with hd := { s.rng.hd with inten := true, phase := .active } },
            host := { s.host with result := .ok .unit } } := by
  by_cases h : s.rng.hd.phase = .idle <;>
    simp [rngStart, h, State.startHandle_eq, State.ok_eq, eq_comm, State.setRng]

theorem txnOk_iff (addr : Byte) (wdata : List Byte) (rlen : Byte) :
    txnOk addr wdata rlen = true ↔ addr.toNat < 128 ∧ wdata.length ≤ 255 ∧ 1 ≤ wdata.length + rlen.toNat := by
  simp [txnOk, and_assoc]

/-- When `I2C_START` is accepted and what it answers (42_i2c.md R184). -/
theorem i2cStart_ok_iff (addr : Byte) (wdata : List Byte) (rlen : Byte) (s t : State) :
    i2cStart addr wdata rlen s = .ok t ↔
      s.i2c.hd.phase = .idle ∧ s.i2c.enabled = true ∧ txnOk addr wdata rlen = true ∧
        t =
          { s with
            i2c :=
              { s.i2c with
                hd := { s.i2c.hd with inten := true, phase := .active },
                txn := some { addr := addr.setWidth 7, wdata := wdata, rlen := rlen.toNat }, rdata := [],
                err := .noError },
            host := { s.host with result := .ok .unit } } := by
  by_cases h : s.i2c.hd.phase = .idle <;> by_cases he : s.i2c.enabled = true <;>
    by_cases hk : txnOk addr wdata rlen = true <;>
    simp [i2cStart, h, he, hk, State.startHandle_eq, State.ok_eq, eq_comm, State.setI2c]

/-- When `I2C_ENABLE` is accepted and what it answers (42_i2c.md R182). -/
theorem i2cEnable_ok_iff (s t : State) :
    i2cEnable s = .ok t ↔
      s.i2c.hd.phase = .idle ∧
        t = { s with i2c := { s.i2c with enabled := true }, host := { s.host with result := .ok .unit } } := by
  by_cases h : s.i2c.hd.phase = .idle <;> simp [i2cEnable, h, State.ok_eq, eq_comm, State.setI2c]

/-- When `I2C_DISABLE` is accepted and what it answers (42_i2c.md R183). -/
theorem i2cDisable_ok_iff (s t : State) :
    i2cDisable s = .ok t ↔
      s.i2c.hd.phase = .idle ∧
        t = { s with i2c := { s.i2c with enabled := false }, host := { s.host with result := .ok .unit } } := by
  by_cases h : s.i2c.hd.phase = .idle <;> simp [i2cDisable, h, State.ok_eq, eq_comm, State.setI2c]

/-- What an accepted `RNG_POLL` answers (43_rng.md R206). -/
theorem rngPoll_ok_iff (s t : State) :
    rngPoll s = .ok t ↔
      s.rng.hd.phase = .active ∧
        t =
          if s.rng.hd.done = true then
            { s with
              rng := { s.rng with hd := { phase := .idle, done := false, inten := false } },
              host := { s.host with result := .ok (.poll (some s.rng.value)) } }
          else { s with host := { s.host with result := .ok (.poll none) } } := by
  by_cases h : s.rng.hd.phase = .active <;> by_cases hd : s.rng.hd.done = true <;>
    simp [rngPoll, h, hd, State.releaseHandle_eq, State.ok_eq, eq_comm, State.setRng]

/-! ### The radio's host operations -/

/-- When a radio init is accepted and what it answers (44_radio.md R217, R218). -/
theorem radioInit_ok_iff (c : RadioCfg) (s t : State) :
    radioInit c s = .ok t ↔
      s.radio.state = .disabled ∧
        t =
          { s with
            radio :=
              { s.radio with
                conf := fixedConf s.par, shorts := { readyStart := true, endDisable := true }, cfg := c },
            host := { s.host with result := .ok .unit } } := by
  by_cases h : s.radio.state = .disabled <;> simp [radioInit, h, State.ok_eq, eq_comm, State.setRadio]

/-- When `RADIO_START_TX` is accepted and what it answers (44_radio.md R222). -/
theorem radioStartTx_ok_iff (strings : List (List Byte)) (s t : State) :
    radioStartTx strings s = .ok t ↔
      s.radio.cfg = .txCfg ∧ s.radio.state = .disabled ∧ (concatenated strings).length ≤ 257 ∧
        t =
          { s with
            buf :=
              Memory.writeBytes s.buf 0 (lengthByte (concatenated strings).length :: concatenated strings),
            radio := { s.radio with pktptr := .toBuf, inten := true, dir := .tx, state := .ready },
            host := { s.host with result := .ok .unit } } := by
  by_cases h : s.radio.cfg = .txCfg <;> by_cases hd : s.radio.state = .disabled <;>
    by_cases hl : (concatenated strings).length ≤ 257 <;>
    simp [radioStartTx, h, hd, hl, State.ok_eq, armRadio_eq, eq_comm, State.setBuf]

/-- When `RADIO_START_RX` is accepted and what it answers (44_radio.md R223). -/
theorem radioStartRx_ok_iff (s t : State) :
    radioStartRx s = .ok t ↔
      s.radio.cfg = .rxCfg ∧ s.radio.state = .disabled ∧
        t =
          { s with
            radio := { s.radio with pktptr := .toBuf, inten := true, dir := .rx, state := .ready },
            host := { s.host with result := .ok .unit } } := by
  by_cases h : s.radio.cfg = .rxCfg <;> by_cases hd : s.radio.state = .disabled <;>
    simp [radioStartRx, h, hd, State.ok_eq, armRadio_eq, eq_comm]

/-- An accepted `RADIO_EVENT_READ` changes nothing but the host's result (44_radio.md R249). -/
theorem radioEventRead_ok_iff (k : Byte) (s t : State) :
    radioEventRead k s = .ok t ↔
      ∃ b, s.radio.ev.get? k.toNat = some b ∧ t = { s with host := { s.host with result := .ok (.flag b) } } := by
  cases h : s.radio.ev.get? k.toNat <;> simp [radioEventRead, h, State.ok_eq, eq_comm]

/-- When `HFCLK_STOP` is accepted and what it answers (46_host_sequences.md R321). -/
theorem hfclkStop_ok_iff (s t : State) :
    hfclkStop s = .ok t ↔
      s.radio.state = .disabled ∧ t = { s with hfclk := false, host := { s.host with result := .ok .unit } } := by
  by_cases h : s.radio.state = .disabled <;> simp [hfclkStop, h, State.ok_eq, eq_comm, State.setHfclk]

/-! ### The nonce and the codec -/

/-- When the first draw of a nonce is accepted and what it answers (43_rng.md R207). -/
theorem drawNonce_ok_iff (rest : List Task) (s t : State) :
    drawNonce rest s = .ok t ↔
      s.rng.hd.phase = .idle ∧
        t =
          { s with
            rng := { s.rng with hd := { s.rng.hd with inten := true, phase := .active } },
            host := { s.host with result := .ok .unit, todo := nonceTasks ++ rest ++ s.host.todo } } := by
  by_cases h : s.rng.hd.phase = .idle <;>
    simp [drawNonce, rngStart, h, State.startHandle_eq, State.ok_eq, State.pushTasks_eq, eq_comm, State.setRng]

theorem wellTyped_iff (s : State) (r : Record) :
    wellTyped s r = true ↔ typeFields s.par.typeTable r.type = some r.fields.length := by simp [wellTyped]

/-- When an encrypted encode is accepted and what its first host step answers (45_codec.md R276). -/
theorem encodeBegin_ok_iff (r : Record) (rest : List Task) (s t : State) :
    encodeBegin r rest s = .ok t ↔
      wellTyped s r = true ∧ (ser r).length ≤ 240 ∧ drawNonce rest (s.fillScratch .sin (ser r)) = .ok t := by
  by_cases h : wellTyped s r = true <;> by_cases hl : (ser r).length ≤ 240 <;>
    simp only [encodeBegin, h, hl, if_true, if_false] <;> simp

/-- When a plaintext encode is accepted and what it answers (45_codec.md R279). -/
theorem encodePlain_ok_iff (r : Record) (s t : State) :
    encodePlain r s = .ok t ↔
      wellTyped s r = true ∧ (ser r).length ≤ 252 ∧ t = s.okStrings [leBytes 2 (plainTag r.type), ser r] := by
  by_cases h : wellTyped s r = true <;> by_cases hl : (ser r).length ≤ 252 <;>
    simp only [encodePlain, h, hl, if_true, if_false] <;> simp [eq_comm]

/-- The tail of a decode changes only the host's result (45_codec.md R287). -/
theorem interpret_eq (t : BitVec 15) (p : List Byte) (s : State) :
    interpret t p s = s.setResult (match parse s.par.typeTable t p with
      | some r => .ok (.record r)
      | none => .err .malformed) := by
  cases h : parse s.par.typeTable t p <;> simp only [interpret, h] <;> rfl

/-- What a decode may write: `SIN`, `SOUT`, the nonce and the host's result (45_codec.md R281 to R289). -/
def DecodeFrame (s t : State) : Prop :=
  t = { s with sin := t.sin, sout := t.sout, nonce := t.nonce, host := { s.host with result := t.host.result } }

theorem DecodeFrame.trans {s t u : State} (h : DecodeFrame s t) (h' : DecodeFrame t u) : DecodeFrame s u := by
  unfold DecodeFrame at *
  rw [h', h]

theorem decodeFrame_setResult (s : State) (r : Result) : DecodeFrame s (s.setResult r) := rfl

theorem decodeFrame_setNonce (s : State) (n : Nonce) : DecodeFrame s (s.setNonce n) := rfl

theorem decodeFrame_setSin (s : State) (m : Memory) : DecodeFrame s (s.setSin m) := rfl

theorem decodeFrame_setSout (s : State) (m : Memory) : DecodeFrame s (s.setSout m) := rfl

theorem decodeFrame_interpret (t : BitVec 15) (p : List Byte) (s : State) : DecodeFrame s (interpret t p s) := by
  rw [interpret_eq]
  exact decodeFrame_setResult _ _

theorem decodeFrame_decrypted (t : BitVec 15) (r : Option (List Byte)) (s : State) :
    DecodeFrame s (decrypted t r s) := by
  cases r with
  | none => exact (decodeFrame_setSout s _).trans (decodeFrame_setResult _ _)
  | some p => exact (decodeFrame_setSout s _).trans (decodeFrame_interpret _ _ _)

theorem decodeFrame_decodeEnc (ae : AE) (t : BitVec 15) (content : List Byte) (s : State) :
    DecodeFrame s (decodeEnc ae t content s) := by
  unfold decodeEnc
  split
  · exact decodeFrame_setResult _ _
  · refine (decodeFrame_setNonce s (nonceOf content)).trans ?_
    dsimp only
    split
    · exact decodeFrame_setResult _ _
    · exact (decodeFrame_setSin _ _).trans (decodeFrame_decrypted _ _ _)

theorem decodeFrame_decodePlain (t : BitVec 15) (content : List Byte) (s : State) :
    DecodeFrame s (decodePlain t content s) := by
  unfold decodePlain
  split
  · exact decodeFrame_interpret _ _ _
  · exact decodeFrame_setResult _ _

/-- A decode leaves everything alone but what `DecodeFrame` names. -/
theorem decodeFrame_decodePayload (ae : AE) (v : List Byte) (s : State) : DecodeFrame s (decodePayload ae v s) := by
  unfold decodePayload
  split
  · exact decodeFrame_decodeEnc _ _ _ _
  · exact decodeFrame_decodePlain _ _ _
  · exact decodeFrame_setResult _ _

/-- The last step of an encrypted encode, written out (45_codec.md R276). -/
theorem encodeFinish_eq (ae : AE) (r : Record) (s : State) :
    encodeFinish ae r s =
      { s with
        sout :=
          Memory.writeBytes s.sout 0
            (0x00#8 :: BitVec.ofNat 8 (ae.enc s.par.key s.nonce (ser r)).length :: 0x00#8 ::
              ae.enc s.par.key s.nonce (ser r)),
        host :=
          { s.host with
            pkt := encStrings r s.nonce (ae.enc s.par.key s.nonce (ser r)),
            result := .ok (.strings (encStrings r s.nonce (ae.enc s.par.key s.nonce (ser r)))) } } := rfl

/-! ### The radio agent -/

/-- The end event's chain disables the radio or does nothing (44_radio.md R224). -/
theorem chainDisable_cases (s : State) :
    (s.radio.shorts.endDisable = true ∧ chainDisable s = shortDisable s) ∨
      (s.radio.shorts.endDisable = false ∧ chainDisable s = s) := by
  cases h : s.radio.shorts.endDisable <;> simp [chainDisable, h]

/-- The start task writes only the frame in progress and the radio's state (44_radio.md R226, R228). -/
theorem startTask_cases (s : State) :
    (s.radio.dir = .tx ∧
        startTask s = { s with radio := { s.radio with txProg := some (capturedFrame s), state := .tx } }) ∨
      (s.radio.dir = .rx ∧ startTask s = { s with radio := { s.radio with rxProg := none, state := .rx } }) := by
  cases h : s.radio.dir <;> simp [startTask, h, State.setRadio]

/-- An offered frame starts a reception or is a mismatch (44_radio.md R236). -/
theorem rxOffer_cases (f : Frame) (rssi : Rssi) (s : State) :
    (f.addr = s.radio.conf.addr ∧
        rxOffer f rssi s =
          { s with
            radio :=
              { s.radio with
                ev := { s.radio.ev with address := true }, rssi := rssi, rxProg := some (f, 0) } }) ∨
      (f.addr ≠ s.radio.conf.addr ∧
        rxOffer f rssi s = { s with radio := { s.radio with ev := { s.radio.ev with addrmiss := true } } }) := by
  by_cases h : f.addr = s.radio.conf.addr <;> simp [rxOffer, h, State.setRadio, State.setEvents_eq]

/-- The byte a store step has pending (44_radio.md R237). -/
theorem storePending_eq_some_iff (s : State) (f : Frame) (i : Nat) (b : Byte) :
    storePending s = some (f, i, b) ↔
      s.radio.state = .rx ∧ s.radio.rxProg = some (f, i) ∧ f.body[i]? = some b := by
  unfold storePending
  split
  · rename_i h
    split
    · rename_i hp; simp [hp]
    · rename_i g j hp
      split
      · rename_i hb
        simp only [h, hp, reduceCtorEq, Option.some.injEq, Prod.mk.injEq, true_and, false_iff, not_and]
        rintro ⟨rfl, rfl⟩
        simp [hb]
      · rename_i c hb
        simp only [h, hp, Option.some.injEq, Prod.mk.injEq, true_and]
        constructor
        · rintro ⟨rfl, rfl, rfl⟩; exact ⟨⟨rfl, rfl⟩, hb⟩
        · rintro ⟨⟨rfl, rfl⟩, hc⟩; rw [hb] at hc; cases hc; exact ⟨rfl, rfl, rfl⟩
  · rename_i h
    simp [h]

/-- The frame whose reception can end (44_radio.md R238). -/
theorem endPending_eq_some_iff (s : State) (f : Frame) :
    endPending s = some f ↔ s.radio.state = .rx ∧ s.radio.rxProg = some (f, f.body.length) := by
  unfold endPending
  split
  · rename_i h
    split
    · rename_i hp; simp [hp]
    · rename_i g j hp
      split
      · rename_i hj
        simp only [h, hp, Option.some.injEq, Prod.mk.injEq, true_and]
        constructor
        · rintro rfl; exact ⟨rfl, hj⟩
        · rintro ⟨rfl, _⟩; rfl
      · rename_i hj
        simp only [h, hp, reduceCtorEq, Option.some.injEq, Prod.mk.injEq, true_and, false_iff, not_and]
        rintro rfl hl
        exact hj hl
  · rename_i h
    simp [h]

/-! ### The host's turn and the step -/

/-- Everything the host's turn can be (10_state.md R50; log 10, log 12, log 24). -/
theorem hostTurn_cases (s : State) :
    (s.mode = .halted ∧ hostTurn s = .next s) ∨
      (s.mode ≠ .halted ∧ ∃ t ts, s.host.todo = t :: ts ∧ hostTurn s = runTask t (s.setTasks ts)) ∨
      (s.mode ≠ .halted ∧ s.host.todo = [] ∧ hostTurn s = issue s) := by
  by_cases h : s.mode = .halted
  · exact .inl ⟨h, by simp [hostTurn, h]⟩
  · cases ht : s.host.todo with
    | nil => exact .inr (.inr ⟨h, rfl, by simp [hostTurn, h, ht]⟩)
    | cons t ts => exact .inr (.inl ⟨h, t, ts, rfl, by simp [hostTurn, h, ht]⟩)

/-- Everything issuing can be: nothing to do, a decoded instruction, or a word that is none. -/
theorem issue_cases (s : State) :
    (s.host.words = [] ∧ issue s = .next s) ∨
      (∃ w ws i rest, s.host.words = w :: ws ∧ decode (codedWord s w) = .ok (i, rest) ∧
        issue s = exec i (s.setWords (remainingWords rest ws))) ∨
      ∃ w ws e, s.host.words = w :: ws ∧ decode (codedWord s w) = .error e ∧
        issue s = .next (rejectWord e (s.setWords ws)) := by
  cases h : s.host.words with
  | nil => exact .inl ⟨rfl, by simp [issue, fetch, h]⟩
  | cons w ws =>
    cases hd : decode (codedWord s w) with
    | error e => exact .inr (.inr ⟨w, ws, e, rfl, hd, by simp [issue, fetch, h, hd]⟩)
    | ok x =>
      obtain ⟨i, rest⟩ := x
      exact .inr (.inl ⟨w, ws, i, rest, rfl, hd, by simp [issue, fetch, h, hd]⟩)

/-- A rejected word changes only the refused mark and the host's result (log 10). -/
theorem rejectWord_cases (e : DecodeError) (s : State) :
    rejectWord e s = s.raise .malformed ∨ ∃ why, rejectWord e s = s.refuse why := by
  cases e <;> first | exact .inl rfl | exact .inr ⟨_, rfl⟩

/-- Everything an agent's turn can be (log 26). -/
theorem agentTurn_cases (i : Instr) (s : State) :
    ((∃ a, i.agent = some a ∧ a ≠ .host) ∧ agentTurn i s = exec i s) ∨
      ((i.agent = none ∨ i.agent = some .host) ∧ agentTurn i s = .refused .notAnAgentStep) := by
  unfold agentTurn
  cases h : i.agent with
  | none => exact .inr ⟨.inl rfl, rfl⟩
  | some a => cases a <;> simp

/-- Everything a step can be: nobody's turn, the host's, an agent's (00_scope.md R15; log 1). -/
theorem step_cases (s : State) :
    (s.turns = [] ∧ step s = .next s) ∨
      (∃ ts, s.turns = .host :: ts ∧ step s = hostTurn (s.setTurns ts)) ∨
      ∃ i ts, s.turns = .agent i :: ts ∧ step s = agentTurn i (s.setTurns ts) := by
  unfold step
  split
  · rename_i h; exact .inl ⟨h, rfl⟩
  · rename_i ts h; exact .inr (.inl ⟨ts, h, rfl⟩)
  · rename_i i ts h; exact .inr (.inr ⟨i, ts, h, rfl⟩)

end Sys2Proof.Machine
end

