-- ==== Sys2Proof/Laws/PerInstr.lean ====
section
/-! SUPPORT. Statements made per instruction, one lemma a constructor. -/

namespace Sys2Proof.Laws

/-- Only what the host issues or reads has an encoding: no internal step and no internal part has one (30_encoding.md R125,
R127). -/
def OnlyTheHostsAreEncoded.Statement (i : Instr) : Prop := (encode i).isSome = true → i.agent = some .host

theorem OnlyTheHostsAreEncoded.timerStart (ticks : BitVec 32) :
    OnlyTheHostsAreEncoded.Statement (.timerStart ticks) := fun _ => rfl

theorem OnlyTheHostsAreEncoded.timerWait :
    OnlyTheHostsAreEncoded.Statement .timerWait := fun _ => rfl

theorem OnlyTheHostsAreEncoded.rtcStart (compare : BitVec 32) :
    OnlyTheHostsAreEncoded.Statement (.rtcStart compare) := fun _ => rfl

theorem OnlyTheHostsAreEncoded.rtcWait :
    OnlyTheHostsAreEncoded.Statement .rtcWait := fun _ => rfl

theorem OnlyTheHostsAreEncoded.rngStart :
    OnlyTheHostsAreEncoded.Statement .rngStart := fun _ => rfl

theorem OnlyTheHostsAreEncoded.rngWait :
    OnlyTheHostsAreEncoded.Statement .rngWait := fun _ => rfl

theorem OnlyTheHostsAreEncoded.rngPoll :
    OnlyTheHostsAreEncoded.Statement .rngPoll := fun _ => rfl

theorem OnlyTheHostsAreEncoded.i2cEnable :
    OnlyTheHostsAreEncoded.Statement .i2cEnable := fun _ => rfl

theorem OnlyTheHostsAreEncoded.i2cDisable :
    OnlyTheHostsAreEncoded.Statement .i2cDisable := fun _ => rfl

theorem OnlyTheHostsAreEncoded.i2cStart (addr : Byte) (wdata : List Byte) (rlen : Byte) :
    OnlyTheHostsAreEncoded.Statement (.i2cStart addr wdata rlen) := fun _ => rfl

theorem OnlyTheHostsAreEncoded.i2cWait :
    OnlyTheHostsAreEncoded.Statement .i2cWait := fun _ => rfl

theorem OnlyTheHostsAreEncoded.radioInitTx :
    OnlyTheHostsAreEncoded.Statement .radioInitTx := fun _ => rfl

theorem OnlyTheHostsAreEncoded.radioInitRx :
    OnlyTheHostsAreEncoded.Statement .radioInitRx := fun _ => rfl

theorem OnlyTheHostsAreEncoded.radioStartTx (strings : List (List Byte)) :
    OnlyTheHostsAreEncoded.Statement (.radioStartTx strings) := fun _ => rfl

theorem OnlyTheHostsAreEncoded.radioStartRx :
    OnlyTheHostsAreEncoded.Statement .radioStartRx := fun _ => rfl

theorem OnlyTheHostsAreEncoded.radioPayload :
    OnlyTheHostsAreEncoded.Statement .radioPayload := fun _ => rfl

theorem OnlyTheHostsAreEncoded.radioEventRead (k : Byte) :
    OnlyTheHostsAreEncoded.Statement (.radioEventRead k) := fun _ => rfl

theorem OnlyTheHostsAreEncoded.radioEventResetAll :
    OnlyTheHostsAreEncoded.Statement .radioEventResetAll := fun _ => rfl

theorem OnlyTheHostsAreEncoded.radioDisable :
    OnlyTheHostsAreEncoded.Statement .radioDisable := fun _ => rfl

theorem OnlyTheHostsAreEncoded.radioTakeRx :
    OnlyTheHostsAreEncoded.Statement .radioTakeRx := fun _ => rfl

theorem OnlyTheHostsAreEncoded.codecEncodeEnc (r : Record) :
    OnlyTheHostsAreEncoded.Statement (.codecEncodeEnc r) := fun _ => rfl

theorem OnlyTheHostsAreEncoded.codecEncodePlain (r : Record) :
    OnlyTheHostsAreEncoded.Statement (.codecEncodePlain r) := fun _ => rfl

theorem OnlyTheHostsAreEncoded.codecDecode (v : Payload) :
    OnlyTheHostsAreEncoded.Statement (.codecDecode v) := fun _ => rfl

theorem OnlyTheHostsAreEncoded.hfclkStart :
    OnlyTheHostsAreEncoded.Statement .hfclkStart := fun _ => rfl

theorem OnlyTheHostsAreEncoded.hfclkStop :
    OnlyTheHostsAreEncoded.Statement .hfclkStop := fun _ => rfl

theorem OnlyTheHostsAreEncoded.timerTick :
    OnlyTheHostsAreEncoded.Statement .timerTick := fun h => by cases h

theorem OnlyTheHostsAreEncoded.rtcTick :
    OnlyTheHostsAreEncoded.Statement .rtcTick := fun h => by cases h

theorem OnlyTheHostsAreEncoded.rngProduce (v : Byte) :
    OnlyTheHostsAreEncoded.Statement (.rngProduce v) := fun h => by cases h

theorem OnlyTheHostsAreEncoded.i2cComplete (a : Answer) :
    OnlyTheHostsAreEncoded.Statement (.i2cComplete a) := fun h => by cases h

theorem OnlyTheHostsAreEncoded.radioRamp :
    OnlyTheHostsAreEncoded.Statement .radioRamp := fun h => by cases h

theorem OnlyTheHostsAreEncoded.radioTxEnd :
    OnlyTheHostsAreEncoded.Statement .radioTxEnd := fun h => by cases h

theorem OnlyTheHostsAreEncoded.radioRxOffer (f : Frame) (rssi : Rssi) :
    OnlyTheHostsAreEncoded.Statement (.radioRxOffer f rssi) := fun h => by cases h

theorem OnlyTheHostsAreEncoded.radioRxStore :
    OnlyTheHostsAreEncoded.Statement .radioRxStore := fun h => by cases h

theorem OnlyTheHostsAreEncoded.radioRxEnd (tail : List Byte) :
    OnlyTheHostsAreEncoded.Statement (.radioRxEnd tail) := fun h => by cases h

theorem OnlyTheHostsAreEncoded.radioShortStart :
    OnlyTheHostsAreEncoded.Statement .radioShortStart := fun h => by cases h

theorem OnlyTheHostsAreEncoded.radioShortDisable :
    OnlyTheHostsAreEncoded.Statement .radioShortDisable := fun h => by cases h

theorem OnlyTheHostsAreEncoded.irqTimer :
    OnlyTheHostsAreEncoded.Statement .irqTimer := fun h => by cases h

theorem OnlyTheHostsAreEncoded.irqRtc :
    OnlyTheHostsAreEncoded.Statement .irqRtc := fun h => by cases h

theorem OnlyTheHostsAreEncoded.irqRng :
    OnlyTheHostsAreEncoded.Statement .irqRng := fun h => by cases h

theorem OnlyTheHostsAreEncoded.irqI2c :
    OnlyTheHostsAreEncoded.Statement .irqI2c := fun h => by cases h

theorem OnlyTheHostsAreEncoded.irqRadioTx :
    OnlyTheHostsAreEncoded.Statement .irqRadioTx := fun h => by cases h

theorem OnlyTheHostsAreEncoded.irqRadioRx :
    OnlyTheHostsAreEncoded.Statement .irqRadioRx := fun h => by cases h

theorem OnlyTheHostsAreEncoded.envAirDeliver (n : Nat) (body : List Byte) (crc : BitVec 24) (rssi : Rssi) :
    OnlyTheHostsAreEncoded.Statement (.envAirDeliver n body crc rssi) := fun h => by cases h

theorem OnlyTheHostsAreEncoded.envAirDrop (n : Nat) :
    OnlyTheHostsAreEncoded.Statement (.envAirDrop n) := fun h => by cases h

theorem OnlyTheHostsAreEncoded.waitTxDone :
    OnlyTheHostsAreEncoded.Statement .waitTxDone := fun _ => rfl

theorem OnlyTheHostsAreEncoded.blocking (c : BlockingCall) :
    OnlyTheHostsAreEncoded.Statement (.blocking c) := fun _ => rfl

theorem OnlyTheHostsAreEncoded.drawNonce :
    OnlyTheHostsAreEncoded.Statement .drawNonce := fun _ => rfl

theorem OnlyTheHostsAreEncoded.sendEncrypted (r : Record) :
    OnlyTheHostsAreEncoded.Statement (.sendEncrypted r) := fun _ => rfl

theorem OnlyTheHostsAreEncoded.waitRx :
    OnlyTheHostsAreEncoded.Statement .waitRx := fun _ => rfl

theorem OnlyTheHostsAreEncoded.pktPlain (t : BitVec 15) (content : List Byte) :
    OnlyTheHostsAreEncoded.Statement (.pktPlain t content) := fun _ => rfl

theorem OnlyTheHostsAreEncoded.pktEnc (t : BitVec 15) (content : List Byte) :
    OnlyTheHostsAreEncoded.Statement (.pktEnc t content) := fun _ => rfl

theorem OnlyTheHostsAreEncoded.cfgword (board major minor patch : Byte) :
    OnlyTheHostsAreEncoded.Statement (.cfgword board major minor patch) := fun _ => rfl

end Sys2Proof.Laws
end

