-- ==== Sys2Proof/Tests/Slice0.lean ====
section
/-! SUPPORT. The model's own tests. Expected values come from the vectors of 95_test_vectors.md (named T-x and V6) or
from hand calculation by the rule cited; then one witness for the hypotheses of each statement that has any. -/

namespace Sys2Proof.Tests

open Sys2Proof.Machine

/-! ### Fixtures (95_test_vectors.md Part 0) -/

/-- The sample parameters. -/
def fixPar : Params where
  key := #v[0xA0#8, 0xB1#8, 0xC2#8, 0xD3#8, 0xE4#8, 0xF5#8, 0x06#8, 0x17#8, 0x28#8, 0x39#8, 0x4A#8, 0x5B#8, 0x6C#8,
    0x7D#8, 0x8E#8, 0x9F#8]
  cfgword := 0x03010203#32
  channel := 7
  addr := { pfx := 0xE7#8, base := #v[0x01#8, 0x02#8, 0x03#8, 0x04#8] }
  rate := 1
  crcInit := 0#24
  crcCoversAddress := false
  bitOrder := .lsbFirst
  typeTable := [(1#15, 8), (2#15, 20), (3#15, 8), (4#15, 222)]
  acceptPlaintext := true
  rtcPeriod := 4#32
  lowBatt := 5
  timerWidth := 24
  rtcWidth := 24
  deviceId := 0x1122334455667788#64
  partId := 0x0A0B0C0D#32
  secureBuild := true

/-- The state after power-on with the sample parameters and every unspecified register at a named value. -/
def st : State :=
  { State.reset with
    par := fixPar, nonce := Vector.replicate 8 0x00#8, rng := { hd := Handle.reset, value := 0x00#8 },
    timer := { State.reset.timer with target := 0 }, rtc := { State.reset.rtc with compare := 0 },
    radio := { State.reset.radio with dir := .tx, conf := fixedConf fixPar, rssi := 0 },
    host := { State.reset.host with rssi := 0 } }

/-- Active and not done. -/
def busy : Handle := { phase := .active, done := false, inten := true }

/-- Active and done. -/
def done : Handle := { phase := .active, done := true, inten := true }

/-- The next state, if there is one. -/
def stateOf : Out → Option State
  | .next t => some t
  | .fault _ => none
  | .refused _ => none

/-- The next state refused the operation and differs from `s` only in the mark and the host's record. -/
def refusedFrom (s : State) (o : Out) : Bool :=
  (stateOf o).any fun t => t.refused && decide (t.timer = s.timer ∧ t.rtc = s.rtc ∧ t.i2c = s.i2c ∧ t.rng = s.rng ∧
    t.radio.state = s.radio.state ∧ t.buf = s.buf ∧ t.sin = s.sin ∧ t.hfclk = s.hfclk)

/-- The host's result of an operation. -/
def resultOf (o : Out) : Option Result := (stateOf o).map fun t => t.host.result

/-- Record R1. -/
def r1 : Record where
  type := 1#15
  deviceId := 0x1122334455667788#64
  partId := 0x0A0B0C0D#32
  seq := 0#32
  sensorId := 1#16
  fields := [0x00#8, 0x00#8, 0xBC#8, 0x41#8, 0x00#8, 0x00#8, 0x34#8, 0x42#8]

/-- `P` of V6, `ser(R1)`. -/
def p1 : List Byte :=
  [0x88#8, 0x77#8, 0x66#8, 0x55#8, 0x44#8, 0x33#8, 0x22#8, 0x11#8, 0x0D#8, 0x0C#8, 0x0B#8, 0x0A#8, 0x00#8, 0x00#8,
    0x00#8, 0x00#8, 0x01#8, 0x00#8, 0x00#8, 0x00#8, 0xBC#8, 0x41#8, 0x00#8, 0x00#8, 0x34#8, 0x42#8]

/-! ### Well-formedness refuses ill-formed terms -/

theorem test_wf_i2c_address : Instr.wf (.i2cStart 0x80#8 [] 1#8) = false := by decide
theorem test_wf_i2c_wdata : Instr.wf (.i2cStart 0x44#8 (List.replicate 256 0x00#8) 1#8) = false := by
  simp [Instr.wf, i2cWf, -List.reduceReplicate]
theorem test_wf_strings_count : Instr.wf (.radioStartTx (List.replicate 256 [])) = false := by
  simp [Instr.wf, -List.reduceReplicate]
theorem test_wf_string_length : Instr.wf (.radioStartTx [List.replicate 65536 0x00#8]) = false := by
  simp [Instr.wf, -List.reduceReplicate]
theorem test_wf_flag_index : Instr.wf (.radioEventRead 0x08#8) = false := by decide
theorem test_wf_record_enc : Instr.wf (.codecEncodeEnc { r1 with fields := List.replicate 256 0x00#8 }) = false := by
  simp [Instr.wf, recordWf, -List.reduceReplicate]
theorem test_wf_record_plain :
    Instr.wf (.codecEncodePlain { r1 with fields := List.replicate 256 0x00#8 }) = false := by
  simp [Instr.wf, recordWf, -List.reduceReplicate]
theorem test_wf_record_send : Instr.wf (.sendEncrypted { r1 with fields := List.replicate 256 0x00#8 }) = false := by
  simp [Instr.wf, recordWf, -List.reduceReplicate]
theorem test_wf_inline : Instr.wf (.codecDecode (.inline (List.replicate 65536 0x00#8))) = false := by
  simp [Instr.wf, -List.reduceReplicate]
theorem test_wf_answer : Instr.wf (.i2cComplete (.ack (List.replicate 256 0x00#8))) = false := by
  simp [Instr.wf, -List.reduceReplicate]
theorem test_wf_offer_body :
    Instr.wf (.radioRxOffer { addr := fixPar.addr, body := [0x03#8, 0x01#8], crc := 0#24 } 0) = false := by
  decide
theorem test_wf_empty_body : Instr.wf (.radioRxOffer { addr := fixPar.addr, body := [], crc := 0#24 } 0) = false := by
  decide
theorem test_wf_tail : Instr.wf (.radioRxEnd (List.replicate 258 0x00#8)) = false := by
  simp [Instr.wf, -List.reduceReplicate]
theorem test_wf_deliver : Instr.wf (.envAirDeliver 0 [0x03#8] 0#24 0) = false := by decide
theorem test_wf_blocking : Instr.wf (.blocking (.i2c 0x80#8 [] 1#8)) = false := by decide
theorem test_wf_plain_content : Instr.wf (.pktPlain 1#15 (List.replicate 253 0x00#8)) = false := by
  simp [Instr.wf, -List.reduceReplicate]
theorem test_wf_enc_content : Instr.wf (.pktEnc 1#15 (List.replicate 253 0x00#8)) = false := by
  simp [Instr.wf, -List.reduceReplicate]
theorem test_wf_accepts : Instr.wf (.codecEncodeEnc r1) = true := by decide

/-! ### Decoding words written out from 30_encoding.md R125, R126 and the vectors -/

theorem test_decode_timerStart :
    decodeOp [0x01#8, 0x03#8, 0x00#8, 0x00#8, 0x01#8] = .ok (.timerStart 0x01000003#32, []) := by
  decide
theorem test_decode_timerWait : decodeOp [0x02#8] = .ok (.timerWait, []) := by decide
theorem test_decode_rtcStart :
    decodeOp [0x03#8, 0x05#8, 0x00#8, 0x80#8, 0x00#8] = .ok (.rtcStart 0x00800005#32, []) := by
  decide
theorem test_decode_rtcWait : decodeOp [0x04#8] = .ok (.rtcWait, []) := by decide
theorem test_decode_rngStart : decodeOp [0x05#8] = .ok (.rngStart, []) := by decide
theorem test_decode_rngWait : decodeOp [0x06#8] = .ok (.rngWait, []) := by decide
theorem test_decode_rngPoll : decodeOp [0x07#8] = .ok (.rngPoll, []) := by decide
theorem test_decode_i2cEnable : decodeOp [0x08#8] = .ok (.i2cEnable, []) := by decide
theorem test_decode_i2cDisable : decodeOp [0x09#8] = .ok (.i2cDisable, []) := by decide
/-- T-I2C-15. -/
theorem test_decode_i2cStart :
    decodeOp [0x0A#8, 0x44#8, 0x02#8, 0x01#8, 0x02#8, 0x00#8] = .ok (.i2cStart 0x44#8 [0x01#8, 0x02#8] 0x00#8, []) := by
  decide
theorem test_decode_i2cWait : decodeOp [0x0B#8] = .ok (.i2cWait, []) := by decide
theorem test_decode_radioInitTx : decodeOp [0x10#8] = .ok (.radioInitTx, []) := by decide
theorem test_decode_radioInitRx : decodeOp [0x11#8] = .ok (.radioInitRx, []) := by decide
/-- T-RAD-9. -/
theorem test_decode_radioStartTx :
    decodeOp [0x12#8, 0x02#8, 0x01#8, 0x00#8, 0xAA#8, 0x02#8, 0x00#8, 0xBB#8, 0xCC#8]
      = .ok (.radioStartTx [[0xAA#8], [0xBB#8, 0xCC#8]], []) := by decide
theorem test_decode_radioStartRx : decodeOp [0x13#8] = .ok (.radioStartRx, []) := by decide
theorem test_decode_radioPayload : decodeOp [0x14#8] = .ok (.radioPayload, []) := by decide
theorem test_decode_radioEventRead : decodeOp [0x15#8, 0x07#8] = .ok (.radioEventRead 0x07#8, []) := by decide
theorem test_decode_radioEventResetAll : decodeOp [0x16#8] = .ok (.radioEventResetAll, []) := by decide
theorem test_decode_radioDisable : decodeOp [0x17#8] = .ok (.radioDisable, []) := by decide
theorem test_decode_radioTakeRx : decodeOp [0x18#8] = .ok (.radioTakeRx, []) := by decide
/-- The operation word of 95_test_vectors.md 2.8. -/
theorem test_decode_codecEncodeEnc :
    decodeOp ([0x20#8, 0x01#8, 0x00#8] ++ p1.take 18 ++ [0x08#8] ++ p1.drop 18) = .ok (.codecEncodeEnc r1, []) := by
  decide
theorem test_decode_codecEncodePlain :
    decodeOp ([0x21#8, 0x01#8, 0x00#8] ++ p1.take 18 ++ [0x08#8] ++ p1.drop 18) = .ok (.codecEncodePlain r1, []) := by
  decide
theorem test_decode_codecDecode_inline :
    decodeOp [0x22#8, 0x01#8, 0x02#8, 0x00#8, 0x01#8, 0x80#8] = .ok (.codecDecode (.inline [0x01#8, 0x80#8]), []) := by
  decide
theorem test_decode_codecDecode_view : decodeOp [0x22#8, 0x00#8] = .ok (.codecDecode .view, []) := by decide
theorem test_decode_hfclkStart : decodeOp [0x30#8] = .ok (.hfclkStart, []) := by decide
theorem test_decode_hfclkStop : decodeOp [0x31#8] = .ok (.hfclkStop, []) := by decide
theorem test_decode_rest : decodeOp [0x05#8, 0x07#8] = .ok (.rngStart, [0x07#8]) := by decide
/-- T-RAD-14e. -/
theorem test_decode_unknown : decodeOp [0x0C#8] = .error (.unknownOperation 0x0C#8) := by decide
theorem test_decode_type_bit15 :
    decodeOp ([0x20#8, 0x01#8, 0x80#8] ++ p1.take 18 ++ [0x00#8]) = .error .typeBit15 := by decide
/-- T-ENC-1. -/
theorem test_decode_pktEnc : decodePacket [0x01#8, 0x80#8, 0xAA#8] = .ok (.pktEnc 1#15 [0xAA#8], []) := by decide
/-- T-ENC-2. -/
theorem test_decode_pktEnc_all_ones : decodePacket [0xFF#8, 0xFF#8] = .ok (.pktEnc 0x7FFF#15 [], []) := by decide
theorem test_decode_pktPlain : decodePacket [0x34#8, 0x12#8] = .ok (.pktPlain 0x1234#15 [], []) := by decide
/-- T-ENC-10. -/
theorem test_decode_cfgword : decodeConfig 0x03010203#32 = .cfgword 0x03#8 0x01#8 0x02#8 0x03#8 := by decide
theorem test_encode_record :
    encode (.codecEncodeEnc r1) = some (.op ([0x20#8, 0x01#8, 0x00#8] ++ p1.take 18 ++ [0x08#8] ++ p1.drop 18)) := by
  decide

/-! ### Words of the opcode table -/

theorem test_table_op : decodeTableWord 8 0x01 = some (.timerStart 0#32) := by decide
theorem test_table_record :
    decodeTableWord 8 0x20 = some (.codecEncodeEnc
      { type := 0#15, deviceId := 0#64, partId := 0#32, seq := 0#32, sensorId := 0#16, fields := [] }) := by decide
theorem test_table_packet : decodeTableWord 16 0x8001 = some (.pktEnc 1#15 []) := by decide
theorem test_table_config : decodeTableWord 32 0x03010203 = some (.cfgword 0x03#8 0x01#8 0x02#8 0x03#8) := by decide
theorem test_table_unknown : decodeTableWord 8 0x0C = none := by decide
theorem test_fetch_op :
    resultOf (step (State.reset.withFetchWord 8 0x05)) = some (.ok .unit) := by decide
theorem test_fetch_refused :
    resultOf (step (State.reset.withFetchWord 8 0x02)) = some (.refused (.notActive .timer)) := by decide
theorem test_fetch_packet : resultOf (step (State.reset.withFetchWord 16 0x8001)) = some (.err .malformed) := by decide
theorem test_fetch_config :
    resultOf (step (State.reset.withFetchWord 32 0x03010203)) = some (.ok (.config 0x03#8 0x01#8 0x02#8 0x03#8)) := by
  decide

/-! ### One step each: the timers (95_test_vectors.md 2.1, 2.2) -/

/-- T-TIM-1 end, with the counter at `n`. -/
def timing (n : Nat) : State := { st with timer := { hd := busy, counter := n, target := 3, running := true } }

/-- T-RTC-1 end, with the counter at `n` and the handle `h`. -/
def counting (h : Handle) (n : Nat) : State := { st with rtc := { hd := h, counter := n, compare := 5, running := true } }

/-- T-TIM-1. -/
theorem test_timerStart : (stateOf (exec (.timerStart 3#32) st)).map (·.timer) = some (timing 0).timer := by decide
/-- T-TIM-6 and T-TIM-5. -/
theorem test_timerStart_refused :
    refusedFrom st (exec (.timerStart 0x01000000#32) st) = true ∧ refusedFrom st (exec (.timerStart 0#32) st) = true := by
  decide
/-- T-TIM-2, the second tick. -/
theorem test_timerTick : (stateOf (exec .timerTick (timing 1))).map (·.timer) = some (timing 2).timer := by decide
/-- T-TIM-2, the third tick. -/
theorem test_timerTick_match :
    (stateOf (exec .timerTick (timing 2))).map (·.timer)
      = some { hd := done, counter := 3, target := 3, running := false } := by decide
/-- T-BLK-6. -/
theorem test_timerWait_held :
    (stateOf (exec .timerWait (timing 0))).map (fun t => (t.mode, t.host.todo))
      = some (.sleeping, [.op .timerWait]) := by decide
/-- T-TIM-3. -/
theorem test_timerWait :
    (stateOf (exec .timerWait { st with timer := { hd := done, counter := 3, target := 3, running := false } })).map
      (·.timer) = some { hd := Handle.reset, counter := 3, target := 3, running := false } := by decide
/-- T-RTC-1, from a counter that was not zero (T-RTC-4). -/
theorem test_rtcStart :
    (stateOf (exec (.rtcStart 5#32) (counting Handle.reset 8))).map (·.rtc) = some (counting busy 0).rtc := by decide
/-- T-RTC-7. -/
theorem test_rtcStart_refused : refusedFrom st (exec (.rtcStart 0x01000000#32) st) = true := by decide
/-- T-RTC-2, the fifth and the sixth tick. -/
theorem test_rtcTick :
    (stateOf (exec .rtcTick (counting busy 4))).map (·.rtc) = some (counting done 5).rtc ∧
      (stateOf (exec .rtcTick (counting done 5))).map (·.rtc) = some (counting done 6).rtc := by decide
/-- T-RTC-5. -/
theorem test_rtcTick_idle :
    (stateOf (exec .rtcTick (counting Handle.reset 4))).map (·.rtc) = some (counting Handle.reset 5).rtc := by decide
/-- T-RTC-3. -/
theorem test_rtcWait :
    (stateOf (exec .rtcWait (counting done 6))).map (·.rtc) = some (counting Handle.reset 6).rtc := by decide

/-! ### The random generator (95_test_vectors.md 2.4) -/

/-- The generator with a handle and a value. -/
def drawing (h : Handle) (v : Byte) : State := { st with rng := { hd := h, value := v } }

/-- T-RNG-1. -/
theorem test_rngStart : (stateOf (exec .rngStart st)).map (·.rng) = some (drawing busy 0x00#8).rng := by decide
/-- T-RNG-9. -/
theorem test_rngStart_refused :
    refusedFrom (drawing busy 0x00#8) (exec .rngStart (drawing busy 0x00#8)) = true := by decide
/-- T-RNG-2. -/
theorem test_rngProduce :
    (stateOf (exec (.rngProduce 0x5A#8) (drawing busy 0x00#8))).map (·.rng) = some (drawing done 0x5A#8).rng := by
  decide
/-- T-RNG-3. -/
theorem test_rngWait :
    (stateOf (exec .rngWait (drawing done 0x5A#8))).map (fun t => (t.rng, t.host.result))
      = some ({ hd := Handle.reset, value := 0x5A#8 }, .ok (.byte 0x5A#8)) := by decide
/-- T-RNG-5. -/
theorem test_rngPoll :
    (stateOf (exec .rngPoll (drawing done 0x5A#8))).map (fun t => (t.rng, t.host.result))
      = some ({ hd := Handle.reset, value := 0x5A#8 }, .ok (.poll (some 0x5A#8))) := by decide
/-- T-RNG-4 and T-RNG-6. -/
theorem test_rngPoll_pending :
    resultOf (exec .rngPoll (drawing busy 0x00#8)) = some (.ok (.poll none)) ∧
      refusedFrom st (exec .rngPoll st) = true := by decide
/-- T-RNG-7, its first host step. -/
theorem test_drawNonce :
    (stateOf (exec .drawNonce st)).map (fun t => (t.rng.hd, t.host.todo.take 2))
      = some (busy, [.nonceTake 0, .nonceStart]) := by decide
/-- T-RNG-7, the third draw. -/
theorem test_nonceTake :
    (stateOf (runTask (.nonceTake 2) (drawing done 0x03#8))).map (·.nonce)
      = some #v[0x00#8, 0x00#8, 0x03#8, 0x00#8, 0x00#8, 0x00#8, 0x00#8, 0x00#8] := by decide

/-! ### I2C (95_test_vectors.md 2.3) -/

/-- T-I2C-1 end. -/
def i2cOn : State := { st with i2c := { st.i2c with enabled := true } }

/-- The transaction of T-I2C-2. -/
def txn : Txn := { addr := 0x44#7, wdata := [0xFD#8], rlen := 6 }

/-- The driver inside the transaction of T-I2C-2, with a handle and a result. -/
def inTxn (h : Handle) (rdata : List Byte) (err : BusError) : State :=
  { st with i2c := { hd := h, enabled := true, txn := some txn, rdata := rdata, err := err } }

/-- Six bytes read. -/
def six : List Byte := [0xAA#8, 0xBB#8, 0xCC#8, 0xDD#8, 0xEE#8, 0xFF#8]

/-- T-I2C-1. -/
theorem test_i2cEnable : (stateOf (exec .i2cEnable st)).map (·.i2c) = some i2cOn.i2c := by decide
/-- T-I2C-11. -/
theorem test_i2cEnable_refused :
    refusedFrom (inTxn busy [] .noError) (exec .i2cEnable (inTxn busy [] .noError)) = true := by decide
/-- T-I2C-5. -/
theorem test_i2cDisable : (stateOf (exec .i2cDisable i2cOn)).map (·.i2c) = some st.i2c := by decide
/-- T-I2C-10. -/
theorem test_i2cDisable_refused :
    refusedFrom (inTxn busy [] .noError) (exec .i2cDisable (inTxn busy [] .noError)) = true := by decide
/-- T-I2C-2. -/
theorem test_i2cStart :
    (stateOf (exec (.i2cStart 0x44#8 [0xFD#8] 0x06#8) i2cOn)).map (·.i2c) = some (inTxn busy [] .noError).i2c := by
  decide
/-- T-I2C-9, T-I2C-12, T-I2C-13. -/
theorem test_i2cStart_refused :
    refusedFrom st (exec (.i2cStart 0x44#8 [0xFD#8] 0x06#8) st) = true ∧
      refusedFrom i2cOn (exec (.i2cStart 0x80#8 [0xFD#8] 0x06#8) i2cOn) = true ∧
        refusedFrom i2cOn (exec (.i2cStart 0x44#8 [] 0x00#8) i2cOn) = true := by decide
/-- T-I2C-3; an answer of another length does not fit (42_i2c.md R186). -/
theorem test_i2cComplete :
    (stateOf (exec (.i2cComplete (.ack six)) (inTxn busy [] .noError))).map (·.i2c)
        = some (inTxn done six .noError).i2c ∧
      (stateOf (exec (.i2cComplete (.ack [0xAA#8])) (inTxn busy [] .noError))).map (·.i2c)
        = some (inTxn busy [] .noError).i2c := by decide
/-- T-I2C-6, T-I2C-8. -/
theorem test_i2cComplete_nack_stall :
    (stateOf (exec (.i2cComplete .nack) (inTxn busy [] .noError))).map (·.i2c) = some (inTxn done [] .nack).i2c ∧
      (stateOf (exec (.i2cComplete .stall) (inTxn busy [] .noError))).map (·.i2c)
        = some (inTxn busy [] .noError).i2c := by decide
/-- T-I2C-4. -/
theorem test_i2cWait :
    (stateOf (exec .i2cWait (inTxn done six .noError))).map (fun t => (t.i2c, t.host.result))
      = some (i2cOn.i2c, .ok (.bytes six)) := by decide
/-- T-I2C-7. -/
theorem test_i2cWait_bus :
    (stateOf (exec .i2cWait (inTxn done [] .bus))).map (fun t => (t.i2c, t.host.result))
      = some (i2cOn.i2c, .err .i2cBus) := by decide

/-! ### Interrupt handlers (T-BLK-7; 60_exceptions.md R347) -/

theorem test_irqTimer :
    (stateOf (exec .irqTimer { st with timer := { st.timer with hd := done } })).map (·.timer.hd)
      = some { done with inten := false } := by decide
theorem test_irqRtc :
    (stateOf (exec .irqRtc (counting done 5))).map (·.rtc) = some (counting { done with inten := false } 5).rtc := by
  decide
theorem test_irqRng :
    (stateOf (exec .irqRng (drawing done 0x5A#8))).map (·.rng)
      = some (drawing { done with inten := false } 0x5A#8).rng := by decide
theorem test_irqRng_low :
    (stateOf (exec .irqRng (drawing busy 0x5A#8))).map (·.rng) = some (drawing busy 0x5A#8).rng := by decide
theorem test_irqI2c :
    (stateOf (exec .irqI2c (inTxn done six .noError))).map (·.i2c)
      = some (inTxn { done with inten := false } six .noError).i2c := by decide

/-! ### The CRC (T-ENC-6, T-ENC-7, T-ENC-9) -/

/-- The bytes of "123456789". -/
def digits : List Byte :=
  [0x31#8, 0x32#8, 0x33#8, 0x34#8, 0x35#8, 0x36#8, 0x37#8, 0x38#8, 0x39#8]

theorem test_crc_init0 :
    crc24 .lsbFirst crcPoly 0#24 [0x80#8] = 0x00065B#24 ∧ crc24 .lsbFirst crcPoly 0#24 [0x01#8] = 0x032D80#24 ∧
      crc24 .lsbFirst crcPoly 0#24 [0x03#8, 0x01#8, 0x00#8] = 0x628788#24 ∧
        crc24 .lsbFirst crcPoly 0#24 digits = 0x159B3B#24 := by decide +kernel
theorem test_crc_init5 :
    crc24 .lsbFirst crcPoly 0x555555#24 [0x80#8] = 0x54BF1C#24 ∧
      crc24 .lsbFirst crcPoly 0x555555#24 digits = 0x6A5A43#24 := by decide +kernel
theorem test_crc_msb :
    crc24 .msbFirst crcPoly 0#24 [0x80#8] = 0x032D80#24 ∧ crc24 .msbFirst crcPoly 0#24 [0x01#8] = 0x00065B#24 := by
  decide

/-! ### The radio (95_test_vectors.md 2.5 to 2.7) -/

/-- The flags with the named ones set. -/
def flags (ready address payload crcok crcerror ended disabled : Bool) : Events :=
  { ready := ready, address := address, addrmiss := false, payload := payload, crcok := crcok, crcerror := crcerror,
    ended := ended, disabled := disabled }

/-- A radio configured for a role, in a state. -/
def radioIn (c : RadioCfg) (d : Direction) (x : RadioState) : State :=
  { st with
    hfclk := true,
    radio :=
      { st.radio with
        cfg := c, dir := d, state := x, shorts := { readyStart := true, endDisable := true } } }

/-- T-RAD-9 end: `BUF` filled and the radio Ready to transmit. -/
def armedTx : State :=
  let s := radioIn .txCfg .tx .ready
  { s with
    buf := [(0, 0x04#8), (1, 0xAA#8), (2, 0xBB#8), (3, 0xCC#8)],
    radio := { s.radio with inten := true, pktptr := .toBuf } }

/-- The frame of T-RAD-10. -/
def txFrame : Frame := { addr := fixPar.addr, body := [0x04#8, 0xAA#8, 0xBB#8, 0xCC#8], crc := 0x329309#24 }

/-- T-RAD-10 end. -/
def sending : State :=
  { armedTx with
    radio :=
      { armedTx.radio with
        state := .tx, ev := flags true false false false false false false, txProg := some txFrame } }

/-- The good frame of T-RAD-15. -/
def rxFrame : Frame := { addr := fixPar.addr, body := [0x03#8, 0x01#8, 0x00#8], crc := 0x628788#24 }

/-- A frame for another address. -/
def otherFrame : Frame := { rxFrame with addr := { rxFrame.addr with pfx := 0x00#8 } }

/-- The radio listening, or with a reception in progress. -/
def hearing (p : Option (Frame × Nat)) : State :=
  let s := radioIn .rxCfg .rx .rx
  { s with
    radio := { s.radio with inten := true, pktptr := .toBuf, rxProg := p, ev := flags true false false false false false false } }

/-- T-RAD-8. -/
theorem test_radioInitTx :
    (stateOf (exec .radioInitTx st)).map (fun t => (t.radio.cfg, t.radio.conf, t.radio.shorts))
      = some
        (.txCfg,
          { channel := 7, addr := fixPar.addr, crcLen := 3, crcPoly := 0x00065B#24, crcInit := 0#24, rate := 1,
            maxlen := 255 },
          { readyStart := true, endDisable := true }) := by decide
/-- T-RAD-14d. -/
theorem test_radioInitTx_refused : refusedFrom armedTx (exec .radioInitTx armedTx) = true := by decide
theorem test_radioInitRx : (stateOf (exec .radioInitRx st)).map (·.radio.cfg) = some .rxCfg := by decide
/-- T-RAD-9. -/
theorem test_radioStartTx :
    (stateOf (exec (.radioStartTx [[0xAA#8], [0xBB#8, 0xCC#8]]) (radioIn .txCfg .rx .disabled))).map
      (fun t => (t.buf, t.radio)) = some (armedTx.buf, armedTx.radio) := by decide
/-- T-RAD-7, T-RAD-14c, T-RAD-14d. -/
theorem test_radioStartTx_refused :
    refusedFrom (radioIn .txCfg .tx .disabled)
        (exec (.radioStartTx [List.replicate 129 0x00#8, List.replicate 129 0x00#8]) (radioIn .txCfg .tx .disabled)) = true ∧
      refusedFrom st (exec (.radioStartTx [[0x01#8]]) st) = true ∧
        refusedFrom armedTx (exec (.radioStartTx [[0x01#8]]) armedTx) = true := by decide +kernel
/-- T-RAD-10. -/
theorem test_radioRamp : (stateOf (exec .radioRamp armedTx)).map (·.radio) = some sending.radio := by decide +kernel
/-- T-RAD-13, and listening after the ramp. -/
theorem test_radioRamp_clock :
    (stateOf (exec .radioRamp { armedTx with hfclk := false })).map (·.radio) = some armedTx.radio ∧
      (stateOf (exec .radioRamp (radioIn .rxCfg .rx .ready))).map (fun t => (t.radio.state, t.radio.rxProg))
        = some (.rx, none) := by decide
/-- The chained half of T-RAD-10 (44_radio.md R224). -/
theorem test_radioShortStart :
    (stateOf (exec .radioShortStart
      { armedTx with radio := { armedTx.radio with ev := sending.radio.ev } })).map (·.radio) = some sending.radio := by
  decide +kernel
/-- T-RAD-11. -/
theorem test_radioTxEnd :
    (stateOf (exec .radioTxEnd sending)).map (fun t => (t.air, t.radio.state, t.radio.ev, t.radio.txProg))
      = some ([txFrame], .disabled, flags true false false false false true true, none) := by decide
/-- T-RAD-11. -/
theorem test_irqRadioTx :
    (stateOf (exec .irqRadioTx
      { sending with radio := { sending.radio with ev := flags true false false false false true true } })).map
      (fun t => (t.radio.inten, t.radio.ev.disabled)) = some (false, true) := by decide
/-- The chained half of T-RAD-11 (44_radio.md R224). -/
theorem test_radioShortDisable :
    (stateOf (exec .radioShortDisable
      { sending with radio := { sending.radio with ev := flags true false false false false true false } })).map
      (fun t => (t.radio.state, t.radio.ev)) = some (.disabled, flags true false false false false true true) := by
  decide
/-- T-RAD-14. -/
theorem test_radioDisable :
    (stateOf (exec .radioDisable sending)).map (fun t => (t.air, t.radio.state, t.radio.ev, t.radio.txProg, t.radio.inten))
      = some ([], .disabled, flags true false false false false false true, none, false) := by decide
/-- T-RAD-12. -/
theorem test_radioEventResetAll :
    (stateOf (exec .radioEventResetAll sending)).map (·.radio)
      = some { sending.radio with ev := flags false false false false false false false } := by decide
/-- T-RAD-11, T-RAD-14e. -/
theorem test_radioEventRead :
    resultOf (exec (.radioEventRead 0x00#8) sending) = some (.ok (.flag true)) ∧
      resultOf (exec (.radioEventRead 0x07#8) sending) = some (.ok (.flag false)) ∧
        refusedFrom sending (exec (.radioEventRead 0x08#8) sending) = true := by decide
/-- 2.7, the start. -/
theorem test_radioStartRx :
    (stateOf (exec .radioStartRx (radioIn .rxCfg .tx .disabled))).map
      (fun t => (t.radio.state, t.radio.dir, t.radio.inten, t.radio.pktptr)) = some (.ready, .rx, true, .toBuf) := by
  decide
/-- T-RAD-25. -/
theorem test_radioStartRx_refused :
    refusedFrom (radioIn .txCfg .tx .disabled) (exec .radioStartRx (radioIn .txCfg .tx .disabled)) = true := by decide
/-- T-RAD-15, T-RAD-22. -/
theorem test_radioRxOffer :
    (stateOf (exec (.radioRxOffer rxFrame 9) (hearing none))).map (fun t => (t.radio.rxProg, t.radio.ev.address, t.radio.rssi))
        = some (some (rxFrame, 0), true, 9) ∧
      (stateOf (exec (.radioRxOffer rxFrame 9) armedTx)).map (·.radio) = some armedTx.radio := by decide
/-- T-RAD-16. -/
theorem test_radioRxOffer_mismatch :
    (stateOf (exec (.radioRxOffer otherFrame 9) (hearing none))).map
      (fun t => (t.radio.rxProg, t.radio.ev.addrmiss, t.radio.ev.address, t.radio.rssi))
      = some (none, true, false, 0) := by decide
/-- T-RAD-15, the second store. -/
theorem test_radioRxStore :
    (stateOf (exec .radioRxStore { hearing (some (rxFrame, 1)) with buf := [(0, 0x03#8), (1, 0x77#8)] })).map
      (fun t => (t.buf, t.radio.rxProg)) = some ([(0, 0x03#8), (1, 0x01#8)], some (rxFrame, 2)) := by decide
/-- 44_radio.md R237: no byte is left. -/
theorem test_radioRxStore_complete :
    (stateOf (exec .radioRxStore (hearing (some (rxFrame, 3))))).map (·.radio.rxProg) = some (some (rxFrame, 3)) := by
  decide
/-- T-RAD-15. -/
theorem test_radioRxEnd :
    (stateOf (exec (.radioRxEnd (List.replicate 255 0x00#8)) (hearing (some (rxFrame, 3))))).map
      (fun t => (t.radio.state, t.radio.ev, t.radio.rxProg))
      = some (.disabled, flags true false true true false true true, none) := by decide +kernel
/-- T-RAD-15, the wrong crc. -/
theorem test_radioRxEnd_crc :
    (stateOf (exec (.radioRxEnd (List.replicate 255 0x00#8))
      (hearing (some ({ rxFrame with crc := 0#24 }, 3))))).map (·.radio.ev)
      = some (flags true false true false true true true) := by decide +kernel
/-- T-RAD-15, the handler after a good and after a bad reception, on a sleeping processor. -/
theorem test_irqRadioRx :
    (stateOf (exec .irqRadioRx
      { hearing none with
        mode := .sleeping,
        radio := { (hearing none).radio with state := .disabled, ev := flags true true true true false true true } })).map
      (fun t => (t.mode, t.radio.rxLatch, t.radio.ev, t.radio.state))
      = some (.running, .rxGood, flags false false false false false false false, .ready) := by decide
theorem test_irqRadioRx_bad :
    (stateOf (exec .irqRadioRx
      { hearing none with
        radio := { (hearing none).radio with state := .disabled, ev := flags true true true false true true true } })).map
      (fun t => (t.radio.rxLatch, t.radio.state, t.radio.inten)) = some (.rxBad, .ready, true) := by decide
/-- T-RAD-21. -/
theorem test_radioTakeRx :
    (stateOf (exec .radioTakeRx { st with radio := { st.radio with rxLatch := .rxGood, rssi := 9 } })).map
      (fun t => (t.radio.rxLatch, t.host.result)) = some (.noRx, .ok (.reception .rxGood 9)) := by decide
/-- 44_radio.md R251, T-RAD-17, T-RAD-18. -/
theorem test_radioPayload :
    resultOf (exec .radioPayload { st with buf := [(0, 0x03#8)] }) = some (.ok (.view (some (1, 2)))) ∧
      resultOf (exec .radioPayload { st with buf := [(0, 0x00#8)] }) = some (.ok (.view none)) ∧
        resultOf (exec .radioPayload { st with buf := [(0, 0x01#8)] }) = some (.ok (.view (some (1, 0)))) := by decide
/-- 20_memory.md R91: the view's length is the one `RADIO_PAYLOAD` saw; its bytes are the ones `BUF` holds later. -/
theorem test_view_keeps_its_length :
    (stateOf (exec .radioPayload { st with buf := [(0, 0x03#8), (1, 0x01#8), (2, 0x00#8)] })).map
      (fun t => viewBytes { t with buf := [(0, 0x05#8), (1, 0x07#8), (2, 0x08#8), (3, 0x09#8), (4, 0x0A#8)] })
      = some [0x07#8, 0x08#8] := by decide
/-- T-RAD-18: decoding an empty view is `Malformed`. -/
theorem test_decode_empty_view :
    ((stateOf (exec .radioPayload { st with buf := [(0, 0x01#8)] })).bind
      fun t => resultOf (exec (.codecDecode .view) t)) = some (.err .malformed) := by decide
/-- T-HOST-10. -/
theorem test_hfclk :
    (stateOf (exec .hfclkStart st)).map (·.hfclk) = some true ∧
      (stateOf (exec .hfclkStop (radioIn .txCfg .tx .disabled))).map (·.hfclk) = some false := by decide
theorem test_hfclkStop_refused : refusedFrom sending (exec .hfclkStop sending) = true := by decide
/-- 44_radio.md R230: an altered body and crc, and the frame leaves the air. -/
theorem test_envAirDeliver :
    (stateOf (exec (.envAirDeliver 1 [0x02#8, 0x11#8] 5#24 9) { hearing none with air := [txFrame, rxFrame] })).map
      (fun t => (t.air, t.radio.rxProg))
      = some ([txFrame], some ({ addr := fixPar.addr, body := [0x02#8, 0x11#8], crc := 5#24 }, 0)) := by decide
theorem test_envAirDrop :
    (stateOf (exec (.envAirDrop 0) { st with air := [txFrame, rxFrame] })).map (·.air) = some [rxFrame] := by decide

/-! ### The codec (95_test_vectors.md 2.8, 2.9), with the sample construction `AE.trivialTag` where one is needed -/

/-- Record R1 as type 5, which no table lists. -/
def r5 : Record := { r1 with type := 5#15 }

theorem test_ser : ser r1 = p1 := by decide
/-- T-COD-2. -/
theorem test_codecEncodePlain :
    resultOf (exec (.codecEncodePlain r1) st) = some (.ok (.strings [[0x01#8, 0x00#8], p1])) := by decide
/-- T-COD-5, T-COD-6. -/
theorem test_codecEncode_refused :
    refusedFrom st (exec (.codecEncodePlain r5) st) = true ∧ refusedFrom st (exec (.codecEncodeEnc r5) st) = true ∧
      refusedFrom st (exec (.codecEncodeEnc { r1 with fields := r1.fields.drop 1 }) st) = true := by decide
/-- V6: `SIN[0..29) = 00 1A 00 ‖ P`. -/
theorem test_codecEncodeEnc :
    (stateOf (exec (.codecEncodeEnc r1) st)).map (fun t => (t.memRead .sin 0 29, t.rng.hd))
      = some ([0x00#8, 0x1A#8, 0x00#8] ++ p1, busy) := by decide
/-- T-COD-9. -/
theorem test_sendEncrypted :
    (stateOf (exec (.sendEncrypted r1) st)).map (fun t => (t.rng.hd, t.host.todo.length)) = some (busy, 22) ∧
      refusedFrom (drawing busy 0x00#8) (exec (.sendEncrypted r1) (drawing busy 0x00#8)) = true := by decide
/-- The last step of an encrypted encode: tag, nonce, ciphertext; `SOUT`'s header. -/
theorem test_encodeFinish :
    (encodeFinish AE.trivialTag r1 st).host.pkt =
        [[0x01#8, 0x80#8], List.replicate 8 0x00#8, p1 ++ List.replicate 4 0x00#8] ∧
      (encodeFinish AE.trivialTag r1 st).memRead .sout 0 4 = [0x00#8, 0x1E#8, 0x00#8, 0x88#8] := by decide
/-- T-COD-15 and T-COD-16. -/
theorem test_codecDecode_no_tag :
    resultOf (exec (.codecDecode (.inline [])) st) = some (.err .malformed) ∧
      resultOf (exec (.codecDecode (.inline [0x01#8])) st) = some (.err .malformed) := by decide
/-- T-COD-17 and T-COD-18: the nonce is written only in the second. -/
theorem test_pktEnc_short :
    (stateOf (exec (.pktEnc 1#15 (List.replicate 7 0x09#8)) st)).map (fun t => (t.host.result, t.nonce))
        = some (.err .malformed, Vector.replicate 8 0x00#8) ∧
      (stateOf (exec (.pktEnc 1#15 (List.replicate 11 0x09#8)) st)).map (fun t => (t.host.result, t.nonce, t.sin))
        = some (.err .malformed, Vector.replicate 8 0x09#8, []) := by decide
/-- T-COD-22 and T-COD-24. -/
theorem test_pktPlain :
    resultOf (exec (.pktPlain 1#15 p1) st) = some (.ok (.record r1)) ∧
      resultOf (exec (.pktPlain 1#15 (p1.take 25)) st) = some (.err .malformed) := by decide
/-- T-COD-21. -/
theorem test_pktPlain_rejected :
    resultOf (exec (.pktPlain 1#15 p1) { st with par := { fixPar with acceptPlaintext := false } })
      = some (.err .plaintextRejected) := by decide
/-- The decoder with the sample construction: the record comes back, `SOUT` holds the plaintext. -/
theorem test_decode_record :
    (fun t : State => (t.host.result, t.memRead .sout 0 29))
        (decodePayload AE.trivialTag ([0x01#8, 0x80#8] ++ List.replicate 8 0x00#8 ++ p1 ++ List.replicate 4 0x00#8) st)
      = (.ok (.record r1), [0x00#8, 0x1A#8, 0x00#8] ++ p1) := by decide
/-- T-COD-10 in kind: a changed tag gives the failure, and `SIN` holds the header of the tampered bytes. -/
theorem test_decode_tampered :
    (fun t : State => (t.host.result, t.byteAt .sin 1))
        (decodePayload AE.trivialTag ([0x01#8, 0x80#8] ++ List.replicate 8 0x00#8 ++ p1 ++ List.replicate 4 0x01#8) st)
      = (.err .authFail, 0x1E#8) := by decide +kernel
/-- 30_encoding.md R118. -/
theorem test_cfgword :
    resultOf (exec (.cfgword 0x03#8 0x01#8 0x02#8 0x03#8) st)
      = some (.ok (.config 0x03#8 0x01#8 0x02#8 0x03#8)) := by decide

/-! ### Pseudo-operations and the host's steps (95_test_vectors.md 2.11) -/

theorem test_waitTxDone :
    (stateOf (exec .waitTxDone st)).map (fun t => (t.mode, t.host.todo)) = some (.running, [.op .waitTxDone]) := by
  decide
theorem test_blocking :
    (stateOf (exec (.blocking (.timer 3#32)) st)).map (fun t => (t.timer, t.host.todo))
      = some ((timing 0).timer, [.op .timerWait]) := by decide
theorem test_waitRx :
    (stateOf (exec .waitRx st)).map (fun t => (t.mode, t.host.todo)) = some (.sleeping, [.op .waitRx]) := by decide
/-- T-HOST-4. -/
theorem test_assemble_wraps :
    (stateOf (runTask (.assemble 1#15 3#16 []) { st with seq := 0xFFFFFFFF#32 })).map
      (fun t => (t.seq, t.host.record.map fun r => (r.deviceId, r.partId, r.seq)))
        = some (0#32, some (0x1122334455667788#64, 0x0A0B0C0D#32, 0xFFFFFFFF#32)) := by decide
/-- T-HOST-2. -/
theorem test_halt :
    (stateOf (runTask .haltOnFailure { st with host := { st.host with result := .err .i2cNack } })).map (·.mode)
      = some .halted := by decide
/-- T-HOST-1. -/
theorem test_low_battery :
    (stateOf (runTask (.battery 4) { st with host := { st.host with todo := [.sendPacket] } })).map (·.host.todo)
      = some [.lowBattery] := by decide

/-- One read, a good battery, a record of type 1. -/
def pass1 (report : Option SensorFault) : CycleInputs where
  reads := [{ addr := 0x44#8, wdata := [0xFD#8], rlen := 0x06#8, report := report }]
  battery := 9
  type := 1#15
  sensorId := 3#16
  fields := []

/-- 46_host_sequences.md R313: the loop begins again with `RTC_START`, and after its last operation is the loop. -/
theorem test_node_loop :
    (stateOf (runTask .nodeLoop st)).map (·.host.todo)
        = some [.op (.rtcStart 4#32), .op .rtcWait, .op .i2cEnable, .nodeSample] ∧
      (nodePass (pass1 none)).getLast? = some .nodeLoop := by decide
/-- 46_host_sequences.md R330: the pass goes on when no inputs were supplied. -/
theorem test_node_goes_on :
    (stateOf (runTask .nodeSample st)).map (fun t => (t.host.passes, t.host.todo.getLast?)) = some (1, some .nodeLoop) := by
  simp [runTask, nodeSample, nextInputs, nodePass, State.pushTasks, State.setHost, stateOf, st, State.reset]
/-- 70_reset_and_hazards.md R383: the configuration word is read before role set-up. -/
theorem test_boot_read_first :
    nodeSetup.take 2 = [.bootRead, .op .radioInitTx] ∧ gatewaySetup.take 2 = [.bootRead, .op .radioInitRx] ∧
      (stateOf (runTask .bootRead st)).map (·.host.result) = some (.ok (.config 0x03#8 0x01#8 0x02#8 0x03#8)) := by
  decide
/-- 46_host_sequences.md R330: no single step is a pass of the gateway's loop. -/
theorem test_gateway_run_leaves_the_top (s t : State) : ¬ GatewayRun 1 s t := by
  rintro ⟨_, _, m, h0, h1, _⟩
  omega
/-- 46_host_sequences.md R315: a sensor's CRC failure halts the pass as a bus failure does. -/
theorem test_sensor_failure_halts :
    ((stateOf (runTask (.sensorReport (some .crc)) st)).bind fun t => stateOf (runTask .haltOnFailure t)).map (·.mode)
      = some .halted := by decide
/-- 46_host_sequences.md R328: nothing is forwarded for a failed packet. -/
theorem test_gateway_discards :
    (stateOf (runTask .gatewayForward { st with host := { st.host with result := .err .authFail } })).map
      (·.host.forwarded) = some [] := by decide
/-- 70_reset_and_hazards.md R411: a held host step is not one that fairness speaks of. -/
theorem test_host_enabled :
    hostEnabled { st with host := { st.host with todo := [.op .rngWait] }, rng := { st.rng with hd := busy } } = false ∧
      hostEnabled { st with host := { st.host with todo := [.op .rngWait] }, rng := { st.rng with hd := done } } = true ∧
        hostEnabled { st with host := { st.host with words := [.call [0x05#8]] } } = true ∧ hostEnabled st = false ∧
          weaklyFair .rngWait = true ∧ weaklyFair (.i2cComplete .nack) = false := by decide

/-! ### Witnesses: concrete states and operands that meet the hypotheses of each statement, clause by clause -/

/-- A state in which the host is to issue these words. -/
def issuing (ws : List HostWord) : State :=
  { st with turns := [.host], buf := [(0, 0x03#8), (1, 0x01#8), (2, 0x80#8)], host := { st.host with words := ws } }

/-- A state in which the host is to take this step. -/
def taking (x : Task) : State := { st with turns := [.host], host := { st.host with todo := [x] } }

/-- A state in which this step is an agent's. -/
def acting (i : Instr) : State := { st with turns := [.agent i] }

/-- A state with an agenda. -/
def queued (ts : List Turn) (s : State) : State := { s with turns := ts }

/-- Once Halted. -/
def halted : State := { st with mode := .halted, turns := [.host, .agent .irqRng] }

theorem witness_EncodedInstructionsDecodeToThemselves :
    (Instr.wf (.codecEncodeEnc r1) = true ∧ ∃ bytes, encode (.codecEncodeEnc r1) = some (.op bytes)) ∧
      (Instr.wf (.pktEnc 0x7FFF#15 []) = true ∧ ∃ bytes, encode (.pktEnc 0x7FFF#15 []) = some (.packet bytes)) ∧
        Instr.wf (.cfgword 0xFF#8 0x00#8 0x00#8 0x00#8) = true ∧
          ∃ w, encode (.cfgword 0xFF#8 0x00#8 0x00#8 0x00#8) = some (.config w) :=
  ⟨⟨by decide, _, rfl⟩, ⟨by decide, _, rfl⟩, by decide, _, rfl⟩
theorem witness_DecodedBytesEncodeBack :
    decodeOp [0x05#8, 0x07#8] = .ok (.rngStart, [0x07#8]) ∧
      decodePacket [0xFF#8, 0x7F#8] = .ok (.pktPlain 0x7FFF#15 [], []) := by decide
theorem witness_OtherOperationBytesAreNoOperation :
    (∃ e, decodeOp [0x0C#8] = .error e) ∧ (0x0C#8 : Byte).toNat ≠ 0x0B ∧ (0x31#8 : Byte).toNat = 0x31 :=
  ⟨⟨_, rfl⟩, by decide, by decide⟩
theorem witness_PacketTagSelectsTheLayout :
    (0x80#8 : Byte).getLsbD 7 = true ∧ (0x7F#8 : Byte).getLsbD 7 = false := by decide
theorem witness_WrittenOutWordsDecode :
    (BitOrder.msbFirst, 0x000000#24, [0x01#8], 0x00065B#24) ∈
      [(BitOrder.lsbFirst, 0x000000#24, [0x80#8], 0x00065B#24), (.msbFirst, 0x000000#24, [0x01#8], 0x00065B#24)] := by
  decide
theorem witness_StepRunsTheFetchedInstruction :
    (issuing [.call [0x05#8]]).turns = [.host] ∧ (issuing [.call [0x05#8]]).mode ≠ .halted ∧
      (issuing [.call [0x05#8]]).host.todo = [] ∧ decodeOp [0x05#8] = .ok (.rngStart, []) ∧
        decodePacket (packetBytes (issuing [.packet])) = .ok (.pktEnc 1#15 [], []) ∧
          (issuing [.bootRead]).host.words = [.bootRead] := by decide
theorem witness_StepTakesTheNextTurn :
    st.turns = [] ∧ (acting .irqRng).turns = [.agent .irqRng] ∧ Instr.agent .irqRng = some .irq ∧ Agent.irq ≠ .host ∧
      Instr.agent .radioShortStart = none ∧ Instr.agent .rngStart = some .host ∧ (taking .gatewayLoop).turns = [.host] ∧
        (taking .gatewayLoop).mode ≠ .halted ∧ (taking .gatewayLoop).host.todo = [.gatewayLoop] := by decide
theorem witness_UndecodableWordMarksTheRunRefused :
    (issuing [.call [0x0C#8]]).turns = [.host] ∧ (issuing [.call [0x0C#8]]).mode ≠ .halted ∧
      (issuing [.call [0x0C#8]]).host.todo = [] ∧ (issuing [.call [0x0C#8]]).host.words = [.call [0x0C#8]] ∧
        decodeOp [0x0C#8] = .error (.unknownOperation 0x0C#8) ∧ (issuing []).turns = [.host] ∧
          (issuing []).host.todo = [] ∧ (issuing []).host.words = [] := by decide
theorem witness_UndecodableWordMarksTheRunRefused_packet :
    ∃ s : State, s.turns = [.host] ∧ s.mode ≠ .halted ∧ s.host.todo = [] ∧ s.host.words = [.packet] ∧
      (s.byteAt .buf 0).toNat ≤ 2 :=
  ⟨{ issuing [.packet] with buf := [(0, 0x02#8)] }, by decide⟩
theorem witness_UndecodableWordMarksTheRunRefused_empty :
    ∃ s : State, s.turns = [.host] ∧ s.mode ≠ .halted ∧ s.host.todo = [] ∧ s.host.words = [.packet] ∧
      (s.byteAt .buf 0).toNat = 0 :=
  ⟨{ issuing [.packet] with buf := [(0, 0x00#8)] }, by decide⟩
theorem witness_HaltedHostTakesNoStep :
    halted.mode = .halted ∧ ∃ t, Host.Core.run Sys2Proof.core 2 halted = .next t := ⟨rfl, _, rfl⟩
theorem witness_StepKeepsTheInvariant :
    Inv (acting .timerTick) ∧ ∃ t, step (acting .timerTick) = .next t := by
  refine ⟨⟨⟨rfl, rfl, rfl⟩, ⟨fun p => by cases p <;> simp [acting, st, State.reset, HandleInv, Handle.reset], ?_, ?_⟩, ?_, ?_, ?_,
    ?_⟩, _, rfl⟩
  all_goals simp [acting, st, State.reset, Handle.reset, CountersInv, RadioInv, FramesInv, TasksInv, ViewInv]
theorem witness_ParametersAndRefusalMarkPersist :
    ∃ t, step { acting .timerTick with refused := true } = .next t := ⟨_, rfl⟩
theorem witness_SequenceIndexMovesOnlyByAssembling :
    (∃ t, step (acting .timerTick) = .next t) ∧ ∃ t, step (taking (.assemble 1#15 3#16 [])) = .next t :=
  ⟨⟨_, rfl⟩, _, rfl⟩
theorem witness_OnlyTheirOperationsWriteTheStores :
    (∃ t, exec (.radioStartTx [[0xAA#8]]) (radioIn .txCfg .tx .disabled) = .next t) ∧
      ∃ t, exec (.codecEncodeEnc r1) st = .next t := ⟨⟨_, rfl⟩, _, rfl⟩
theorem witness_FlagsAreSetByAgentsAndClearedByTheirReaders :
    (Instr.agent .radioDisable = some .host ∧ (∃ t, exec .radioDisable st = .next t)) ∧
      (∃ t, exec .rngPoll (drawing done 0x5A#8) = .next t ∧ t.rng.hd.done = false) ∧
        (drawing done 0x5A#8).rng.hd.done = true ∧ sending.radio.ev.get? 0 = some true ∧
          (∃ t, exec .radioEventResetAll sending = .next t ∧ t.radio.ev.get? 0 = some false) ∧
            (0x07#8 : Byte).toNat ≤ 7 :=
  ⟨⟨rfl, _, rfl⟩, ⟨_, rfl, rfl⟩, rfl, rfl, ⟨_, rfl, rfl⟩, by decide⟩
theorem witness_RadioStateChangesOnlyByItsTable :
    (∃ t, exec .radioRamp armedTx = .next t) ∧ ∃ t, exec .irqRadioRx (hearing none) = .next t := ⟨⟨_, rfl⟩, _, rfl⟩
theorem witness_InterruptHandlersCommute :
    Instr.agent .irqTimer = some .irq ∧ Instr.agent .irqRadioRx = some .irq ∧
      ∃ a b c d, exec .irqTimer (hearing none) = .next a ∧ exec .irqRadioRx a = .next b ∧
        exec .irqRadioRx (hearing none) = .next c ∧ exec .irqTimer c = .next d :=
  ⟨rfl, rfl, _, _, _, _, rfl, rfl, rfl, rfl⟩
theorem witness_KeyReachesOnlyTheCodec :
    (∀ v, Instr.codecEncodeEnc r1 ≠ .codecDecode v) ∧ (∀ ty c, Instr.codecEncodeEnc r1 ≠ .pktEnc ty c) ∧
      ∃ t, exec (.codecEncodeEnc r1) st = .next t :=
  ⟨fun _ h => Instr.noConfusion h, fun _ _ h => Instr.noConfusion h, _, rfl⟩
theorem witness_TimerStartArmsTheTimer :
    (st.timer.hd.phase = .idle ∧ 1 ≤ (0xFFFFFF#32).toNat ∧ (0xFFFFFF#32).toNat < 2 ^ st.par.timerWidth) ∧
      ¬ (st.timer.hd.phase = .idle ∧ 1 ≤ (0x1000000#32).toNat ∧ (0x1000000#32).toNat < 2 ^ st.par.timerWidth) := by
  decide
theorem witness_RtcStartClearsAndArmsTheCounter :
    (st.rtc.hd.phase = .idle ∧ (0xFFFFFF#32).toNat < 2 ^ st.par.rtcWidth) ∧
      ¬ (st.rtc.hd.phase = .idle ∧ (0x1000000#32).toNat < 2 ^ st.par.rtcWidth) := by decide
theorem witness_CountersTickAndMatch :
    ((timing 1).timer.running = true ∧
        ((timing 1).timer.counter + 1) % 2 ^ (timing 1).par.timerWidth ≠ (timing 1).timer.target) ∧
      ((timing 2).timer.running = true ∧
        ((timing 2).timer.counter + 1) % 2 ^ (timing 2).par.timerWidth = (timing 2).timer.target) ∧
        st.timer.running = false ∧ (counting busy 4).rtc.running = true ∧ st.rtc.running = false := by decide
theorem witness_StartedTimerCompletesAfterItsTicks :
    ((timing 0).timer.running = true ∧ (timing 0).timer.counter = 0 ∧ (timing 0).timer.target = 3 ∧ 1 ≤ 3 ∧
        3 < 2 ^ (timing 0).par.timerWidth ∧ 2 < 3) ∧
      (queued (List.replicate 3 (.agent .timerTick)) (timing 0)).turns
          = List.replicate 2 (.agent .timerTick) ++ [.agent .timerTick] ∧
        (queued (List.replicate 3 (.agent .timerTick)) (timing 0)).turns
          = List.replicate 3 (.agent .timerTick) ++ [] := ⟨by decide, rfl, rfl⟩
theorem witness_FirstCompareMatchComesOnTime :
    ((counting busy 0).rtc.running = true ∧ (counting busy 0).rtc.counter = 0 ∧
        (counting busy 0).rtc.hd.phase = .active ∧ (counting busy 0).rtc.hd.done = false ∧
          (counting busy 0).rtc.compare < 2 ^ (counting busy 0).par.rtcWidth) ∧
      5 = (if (counting busy 0).rtc.compare = 0 then 2 ^ (counting busy 0).par.rtcWidth
        else (counting busy 0).rtc.compare) ∧
        (queued (List.replicate 5 (.agent .rtcTick)) (counting busy 0)).turns
            = List.replicate 4 (.agent .rtcTick) ++ [.agent .rtcTick] ∧
          (queued (List.replicate 5 (.agent .rtcTick)) (counting busy 0)).turns
            = List.replicate 5 (.agent .rtcTick) ++ [] := ⟨by decide, rfl, rfl, rfl⟩
theorem witness_WaitCompletesHoldsOrIsRefused :
    ((drawing done 0x5A#8).rng.hd.phase = .active ∧ (drawing done 0x5A#8).rng.hd.done = true) ∧
      ((counting done 5).rtc.hd.phase = .active ∧ (counting done 5).rtc.hd.done = true) ∧
        ((inTxn done [] .nack).i2c.hd.phase = .active ∧ (inTxn done [] .nack).i2c.hd.done = true) ∧
          (∃ s : State, s.timer.hd.phase = .active ∧ s.timer.hd.done = true) ∧
            (((timing 0).handle .timer).phase = .active ∧ ((timing 0).handle .timer).done = false) ∧
              (st.handle .rtc).phase = .idle :=
  ⟨by decide, by decide, by decide, ⟨{ st with timer := { st.timer with hd := done } }, rfl, rfl⟩, by decide, by decide⟩
theorem witness_RngStartAndPoll :
    st.rng.hd.phase = .idle ∧ ((drawing busy 0x00#8).rng.hd.phase = .active ∧ (drawing busy 0x00#8).rng.hd.done = false) ∧
      (drawing done 0x00#8).rng.hd.phase = .active ∧ (drawing done 0x00#8).rng.hd.done = true := by decide
theorem witness_RngProduceWritesAnyDraw :
    ((drawing busy 0x00#8).rng.hd.phase = .active ∧ (drawing busy 0x00#8).rng.hd.done = false) ∧
      ¬ (st.rng.hd.phase = .active ∧ st.rng.hd.done = false) := by decide
theorem witness_DrawNonceBeginsWithAGeneration :
    st.rng.hd.phase = .idle ∧ (drawing busy 0x00#8).rng.hd.phase = .active := by decide

/-- The agenda of eight draws, each answered before the host waits. -/
def drawTurns (v : Nonce) : List Turn :=
  [.host, .agent (.rngProduce v[0]), .host, .host, .agent (.rngProduce v[1]), .host, .host, .agent (.rngProduce v[2]), .host,
    .host, .agent (.rngProduce v[3]), .host, .host, .agent (.rngProduce v[4]), .host, .host, .agent (.rngProduce v[5]),
    .host, .host, .agent (.rngProduce v[6]), .host, .host, .agent (.rngProduce v[7]), .host]

theorem witness_DrawNonceStoresTheDrawsInOrder :
    ∃ (s : State) (v : Nonce) (rest : List Task) (ts : List Turn),
      s.mode ≠ .halted ∧ s.host.todo = .op .drawNonce :: rest ∧ s.rng.hd.phase = .idle ∧ s.rng.hd.done = false ∧
        s.turns = drawTurns v ++ ts :=
  ⟨queued (drawTurns (Vector.replicate 8 0x05#8)) (taking (.op .drawNonce)), _, [], [], by decide, rfl, rfl, rfl, rfl⟩
theorem witness_I2cEnableAndDisable : st.i2c.hd.phase = .idle ∧ (inTxn busy [] .noError).i2c.hd.phase = .active := by
  decide
theorem witness_I2cStartRecordsTheTransaction :
    ([] : List Byte).length ≤ 255 ∧
      (i2cOn.i2c.hd.phase = .idle ∧ i2cOn.i2c.enabled = true ∧ (0x7F#8 : Byte).toNat < 128 ∧
        ([] : List Byte).length ≤ 255 ∧ 1 ≤ ([] : List Byte).length + (0x01#8 : Byte).toNat) ∧
        ¬ (i2cOn.i2c.hd.phase = .idle ∧ i2cOn.i2c.enabled = true ∧ (0x80#8 : Byte).toNat < 128 ∧
          ([] : List Byte).length ≤ 255 ∧ 1 ≤ ([] : List Byte).length + (0x01#8 : Byte).toNat) := by decide
theorem witness_I2cCompletePublishesTheAnswer :
    ((inTxn busy [] .noError).i2c.hd.phase = .active ∧ (inTxn busy [] .noError).i2c.hd.done = false ∧
        (inTxn busy [] .noError).i2c.txn = some txn ∧ six.length = txn.rlen ∧ [0x01#8].length ≠ txn.rlen) ∧
      ¬ (st.i2c.hd.phase = .active ∧ st.i2c.hd.done = false) := by decide
theorem witness_I2cWaitReturnsOrRaises :
    ((inTxn done six .noError).i2c.hd.phase = .active ∧ (inTxn done six .noError).i2c.hd.done = true) ∧
      ((inTxn busy [] .noError).i2c.hd.phase = .active ∧ (inTxn busy [] .noError).i2c.hd.done = false) ∧
        st.i2c.hd.phase = .idle := by decide
theorem witness_GenericHandlersOnlyClearTheirEnable :
    ((∃ s : State, s.timer.hd.done = true ∧ s.timer.hd.inten = true) ∧
      ((counting done 5).rtc.hd.done = true ∧ (counting done 5).rtc.hd.inten = true) ∧
        ((drawing done 0x5A#8).rng.hd.done = true ∧ (drawing done 0x5A#8).rng.hd.inten = true) ∧
          (inTxn done [] .nack).i2c.hd.done = true ∧ (inTxn done [] .nack).i2c.hd.inten = true) ∧
      ¬ ((st.handle .rng).done = true ∧ (st.handle .rng).inten = true) ∧
        ∃ t, exec .irqRng (drawing done 0x5A#8) = .next t ∧ ((drawing done 0x5A#8).handle .rng).phase = .active ∧
          ((drawing done 0x5A#8).handle .rng).done = true :=
  ⟨⟨⟨{ st with timer := { st.timer with hd := done } }, rfl, rfl⟩, by decide, by decide, by decide⟩, by decide, _, rfl, rfl,
    rfl⟩

/-- The radio's line high, in a role. -/
def signalling (c : RadioCfg) : State :=
  let s := radioIn c .rx .disabled
  { s with radio := { s.radio with inten := true, ev := flags true true true true false true true } }

theorem witness_RadioHandlersClearOrRearm :
    ((signalling .txCfg).radio.ev.disabled = true ∧ (signalling .txCfg).radio.inten = true ∧
        (signalling .txCfg).radio.cfg = .txCfg) ∧
      ((signalling .rxCfg).radio.ev.disabled = true ∧ (signalling .rxCfg).radio.inten = true ∧
        (signalling .rxCfg).radio.cfg = .rxCfg) ∧
        ¬ (st.radio.ev.disabled = true ∧ st.radio.inten = true ∧ st.radio.cfg = .txCfg) ∧
          ¬ (st.radio.ev.disabled = true ∧ st.radio.inten = true ∧ st.radio.cfg = .rxCfg) := by decide
theorem witness_RadioInitWritesTheFixedConfiguration :
    (Instr.radioInitRx, RadioCfg.rxCfg) ∈ [(Instr.radioInitTx, RadioCfg.txCfg), (.radioInitRx, .rxCfg)] ∧
      st.radio.state = .disabled ∧ armedTx.radio.state ≠ .disabled := by decide
theorem witness_RadioStartTxFillsTheBuffer :
    ((radioIn .txCfg .tx .disabled).radio.cfg = .txCfg ∧ (radioIn .txCfg .tx .disabled).radio.state = .disabled ∧
        [List.replicate 257 0x00#8].flatten.length ≤ 257) ∧
      ¬ ((radioIn .txCfg .tx .disabled).radio.cfg = .txCfg ∧ (radioIn .txCfg .tx .disabled).radio.state = .disabled ∧
        [List.replicate 258 0x00#8].flatten.length ≤ 257) := by
  refine ⟨⟨rfl, rfl, ?_⟩, fun h => absurd h.2.2 ?_⟩ <;> simp [-List.reduceReplicate]
theorem witness_RadioStartTxFillsTheBuffer_word :
    [[0xAA#8], [0xBB#8, 0xCC#8]].length ≤ 255 ∧ ∀ x ∈ [[0xAA#8], [0xBB#8, 0xCC#8]], x.length ≤ 65535 := by decide
theorem witness_RadioStartRxArmsReception :
    ((radioIn .rxCfg .tx .disabled).radio.cfg = .rxCfg ∧ (radioIn .rxCfg .tx .disabled).radio.state = .disabled) ∧
      ¬ (st.radio.cfg = .rxCfg ∧ st.radio.state = .disabled) := by decide
theorem witness_RadioReadersReturnTheState :
    [false, true][(0x01#8 : Byte).toNat]? = some true ∧ 7 < (0x08#8 : Byte).toNat := by decide
theorem witness_HighFrequencyClockStartsAndStops :
    st.radio.state = .disabled ∧ armedTx.radio.state ≠ .disabled := by decide
theorem witness_RadioRampCapturesOrListens :
    (armedTx.radio.state = .ready ∧ armedTx.hfclk = true ∧ armedTx.radio.shorts.readyStart = true ∧
        armedTx.radio.dir = .tx) ∧
      ((radioIn .rxCfg .rx .ready).radio.state = .ready ∧ (radioIn .rxCfg .rx .ready).hfclk = true ∧
        (radioIn .rxCfg .rx .ready).radio.shorts.readyStart = true ∧ (radioIn .rxCfg .rx .ready).radio.dir = .rx) ∧
        ¬ (st.radio.state = .ready ∧ st.hfclk = true) ∧
          { armedTx with radio := { armedTx.radio with ev := sending.radio.ev } }.radio.ev.ready = true := by decide
theorem witness_RadioRampCapturesOrListens_cleared :
    { armedTx with radio := { armedTx.radio with shorts := { readyStart := false, endDisable := false } } }.radio.state
        = .ready ∧ armedTx.hfclk = true ∧ st.radio.ev.ready = false ∧ st.radio.shorts.readyStart = false := by decide
theorem witness_RadioTxEndEmitsTheFrame :
    (sending.radio.state = .tx ∧ sending.radio.shorts.endDisable = true) ∧ st.radio.state ≠ .tx ∧ st.radio.state ≠ .rx ∧
      { sending with radio := { sending.radio with ev := flags true false false false false true false } }.radio.ev.ended
        = true := by decide
theorem witness_RadioTxEndEmitsTheFrame_cleared :
    { sending with radio := { sending.radio with shorts := { readyStart := true, endDisable := false } } }.radio.state
        = .tx ∧ st.radio.ev.ended = false ∧ st.radio.shorts.endDisable = false := by decide
theorem witness_RadioRxOfferFiltersTheAddress :
    ((hearing none).radio.state = .rx ∧ (hearing none).radio.rxProg = none ∧ bodyWf rxFrame.body = true ∧
        rxFrame.addr = (hearing none).radio.conf.addr) ∧
      otherFrame.addr ≠ (hearing none).radio.conf.addr ∧ bodyWf otherFrame.body = true ∧
        ¬ (st.radio.state = .rx ∧ st.radio.rxProg = none ∧ bodyWf rxFrame.body = true) := by decide
theorem witness_RadioRxStoreStoresOneByte :
    ((hearing (some (rxFrame, 2))).radio.state = .rx ∧ (hearing (some (rxFrame, 2))).radio.rxProg = some (rxFrame, 2) ∧
        2 < rxFrame.body.length ∧ 2 < 258) ∧
      st.radio.state ≠ .rx ∧ (hearing none).radio.rxProg = none ∧ rxFrame.body.length ≤ 3 := by decide
theorem witness_RadioRxStoreStoresOneByte_outside :
    ∃ (f : Frame) (s : State), s.radio.state = .rx ∧ s.radio.rxProg = some (f, 258) ∧ 258 < f.body.length ∧ 258 ≤ 258 :=
  ⟨{ rxFrame with body := List.replicate 259 0x00#8 },
    hearing (some ({ rxFrame with body := List.replicate 259 0x00#8 }, 258)), rfl, rfl,
    lt_of_lt_of_eq (by decide) List.length_replicate.symm, le_refl _⟩
theorem witness_RadioRxEndChecksTheCrc :
    (hearing (some (rxFrame, 3))).radio.state = .rx ∧
      (hearing (some (rxFrame, 3))).radio.rxProg = some (rxFrame, rxFrame.body.length) ∧ rxFrame.body.length ≤ 258 ∧
        (List.replicate 255 0x00#8).length = 258 - rxFrame.body.length ∧ st.radio.state ≠ .rx := by decide +kernel
theorem witness_ReceptionStoresTheWholeBody :
    (hearing (some (rxFrame, 0))).radio.state = .rx ∧ (hearing (some (rxFrame, 0))).radio.rxProg = some (rxFrame, 0) ∧
      bodyWf rxFrame.body = true ∧
        (queued (List.replicate 3 (.agent .radioRxStore)) (hearing (some (rxFrame, 0)))).turns
          = List.replicate rxFrame.body.length (.agent .radioRxStore) ++ [] := by decide
theorem witness_UnchangedFramePassesTheCrc :
    armedTx.radio.dir = .tx ∧ armedTx.radio.state = .ready ∧ armedTx.radio.shorts.readyStart = true ∧
      armedTx.hfclk = true ∧ exec .radioRamp armedTx = .next (radioRamp armedTx) ∧
        (radioRamp armedTx).radio.txProg = some txFrame ∧
          (hearing (some (txFrame, 4))).radio.conf = armedTx.radio.conf ∧
            (hearing (some (txFrame, 4))).par = armedTx.par ∧ (hearing (some (txFrame, 4))).radio.state = .rx ∧
              (hearing (some (txFrame, 4))).radio.rxProg = some (txFrame, txFrame.body.length) ∧
                (List.replicate 254 0x00#8).length = 258 - txFrame.body.length :=
  ⟨rfl, rfl, rfl, rfl, rfl, by decide +kernel, rfl, rfl, rfl, rfl, List.length_replicate⟩
theorem witness_AirDeliversOrDrops :
    { hearing none with air := [txFrame, rxFrame] }.air[1]? = some rxFrame ∧ bodyWf [0x01#8] = true ∧
      ((hearing none).radio.state = .rx ∧ (hearing none).radio.rxProg = none) ∧
        rxFrame.addr = (hearing none).radio.conf.addr ∧ otherFrame.addr ≠ (hearing none).radio.conf.addr ∧
          ¬ (st.radio.state = .rx ∧ st.radio.rxProg = none) ∧ st.air[0]? = none ∧ bodyWf [0x02#8] = false := by decide
theorem witness_EncryptedEncodeBegins :
    (typeFields st.par.typeTable r1.type = some r1.fields.length ∧ 18 + r1.fields.length ≤ 240 ∧ st.rng.hd.phase = .idle) ∧
      ¬ (typeFields st.par.typeTable r5.type = some r5.fields.length ∧ 18 + r5.fields.length ≤ 240 ∧
        st.rng.hd.phase = .idle) := by decide
theorem witness_EncryptedEncodeProducesThePacket :
    ∃ (s : State) (v : Nonce) (c : List Byte) (rest : List Task) (ts : List Turn),
      s.mode ≠ .halted ∧ s.host.todo = .op (.codecEncodeEnc r1) :: rest ∧ s.rng.hd.phase = .idle ∧
        s.rng.hd.done = false ∧ typeFields s.par.typeTable r1.type = some r1.fields.length ∧
          18 + r1.fields.length ≤ 240 ∧ c = Config.ae.enc s.par.key v (ser r1) ∧
            s.turns = (drawTurns v ++ [.host]) ++ ts :=
  ⟨queued (drawTurns (Vector.replicate 8 0x05#8) ++ [.host]) (taking (.op (.codecEncodeEnc r1))), _, _, [], [],
    by decide, rfl, rfl, rfl, by decide, by decide, rfl, rfl⟩
theorem witness_PlainEncodeReturnsTagAndRecord :
    (typeFields st.par.typeTable r1.type = some r1.fields.length ∧ 18 + r1.fields.length ≤ 252) ∧
      ¬ (typeFields st.par.typeTable r5.type = some r5.fields.length ∧ 18 + r5.fields.length ≤ 252) ∧
        r1.fields.length ≤ 255 := by decide
theorem witness_DecodeChecksInOrder :
    payloadBytes st (.inline [0x01#8]) = [0x01#8] ∧ [0x01#8].length < 2 ∧
      payloadBytes st (.inline [0x01#8, 0x80#8]) = leBytes 2 ((1#15).toNat ||| 0x8000) ++ [] ∧
        payloadBytes st (.inline [0xFF#8, 0x7F#8]) = leBytes 2 (0x7FFF#15).toNat ++ [] ∧
          2 ≤ [0xFF#8, 0x7F#8].length ∧ (List.replicate 7 0x09#8).length < 8 ∧
            (8 ≤ (List.replicate 11 0x09#8).length ∧ (cipherPart (List.replicate 11 0x09#8)).length < 4) ∧
              (8 ≤ (List.replicate 12 0x09#8).length ∧ 4 ≤ (cipherPart (List.replicate 12 0x09#8)).length) ∧
                { fixPar with acceptPlaintext := false }.acceptPlaintext = false ∧ fixPar.acceptPlaintext = true := by
  decide
theorem witness_DecodeUndoesEncode :
    typeFields st.par.typeTable r1.type = some r1.fields.length ∧ (ser r1).length ≤ 240 ∧
      (radioIn .txCfg .tx .disabled).radio.cfg = .txCfg ∧ (radioIn .txCfg .tx .disabled).radio.state = .disabled ∧
        st.par.acceptPlaintext = true := by decide
theorem witness_FailedAuthenticationLeaksNothing :
    8 ≤ (List.replicate 12 0x01#8).length ∧ 4 ≤ (cipherPart (List.replicate 12 0x01#8)).length ∧
      AE.trivialTag.dec st.par.key (nonceOf (List.replicate 12 0x01#8)) (cipherPart (List.replicate 12 0x01#8)) = none := by
  decide
theorem witness_HostWaitsForTheRadio :
    st.radio.ev.disabled = false ∧ (signalling .txCfg).radio.ev.disabled = true ∧ st.radio.rxLatch = .noRx ∧
      { st with radio := { st.radio with rxLatch := .rxBad } }.radio.rxLatch ≠ .noRx := by decide
theorem witness_BlockingStartsThenWaits :
    (st.timer.hd.phase = .idle ∧ 1 ≤ (1#32).toNat ∧ (1#32).toNat < 2 ^ st.par.timerWidth) ∧
      (st.rtc.hd.phase = .idle ∧ (0#32).toNat < 2 ^ st.par.rtcWidth) ∧ st.rng.hd.phase = .idle ∧
        (i2cOn.i2c.hd.phase = .idle ∧ i2cOn.i2c.enabled = true ∧ (0x7F#8 : Byte).toNat < 128 ∧ [0xFD#8].length ≤ 255 ∧
          1 ≤ [0xFD#8].length + (0x00#8 : Byte).toNat) ∧
          ¬ (st.timer.hd.phase = .idle ∧ 1 ≤ (0#32).toNat ∧ (0#32).toNat < 2 ^ st.par.timerWidth) ∧
            ¬ (counting busy 5).rtc.hd.phase = .idle ∧ ¬ (drawing busy 0x00#8).rng.hd.phase = .idle ∧
              ¬ (st.i2c.hd.phase = .idle ∧ st.i2c.enabled = true) := by decide
theorem witness_AssemblingUsesThenIncrements :
    (taking (.assemble 1#15 3#16 [])).turns = [.host] ∧
      (taking (.assemble 1#15 3#16 [])).mode ≠ .halted ∧
        (taking (.assemble 1#15 3#16 [])).host.todo = [.assemble 1#15 3#16 []] := by decide
theorem witness_UnhandledFailureHaltsAndLowBatteryIsFailDead :
    (taking .haltOnFailure).turns = [.host] ∧ (taking .haltOnFailure).mode ≠ .halted ∧
      (taking .haltOnFailure).host.todo = [.haltOnFailure] ∧
        Failure.sensorCrc ∈ [Failure.i2cNack, .i2cBus, .sensorTimeout, .sensorCrc] ∧ 4 < st.par.lowBatt ∧
          st.par.lowBatt ≤ 5 ∧ (taking (.battery 5)).host.todo = [.battery 5] ∧
            (taking .lowBattery).host.todo = [.lowBattery] ∧
              (taking (.sensorReport none)).host.todo = [.sensorReport none] ∧
                (taking .nodeLoop).host.todo = [.nodeLoop] := by decide
/-- A host step after this result, with one pass's inputs to come. -/
def after (x : Task) (r : Result) : State :=
  { taking x with host := { (taking x).host with result := r, inputs := [pass1 none] } }
theorem witness_UnhandledFailureHaltsAndLowBatteryIsFailDead_sequences :
    ((after .nodeSample .idle).host.todo = [.nodeSample] ∧ (after .nodeSample .idle).host.inputs = [pass1 none]) ∧
      (taking .nodeSample).host.inputs = [] ∧ (taking .encodeRecord).host.todo = [.encodeRecord] ∧ (taking .bootRead).host.todo = [.bootRead] ∧
        { (taking .encodeRecord).host with record := some r1 }.record = some r1 ∧
      (after .gatewayCheck (.ok (.reception .rxBad 3))).host.result = .ok (.reception .rxBad 3) ∧
        (after .gatewayView (.ok (.view (some (1, 2))))).host.result = .ok (.view (some (1, 2))) ∧
          (after .gatewayForward (.ok (.record r1))).host.result = .ok (.record r1) ∧
            (after .gatewayForward (.err .authFail)).host.result = .err .authFail ∧
              ∃ t, step (after .gatewayForward (.ok (.record r1))) = .next t :=
  ⟨by decide, by decide, by decide, by decide, by decide, by decide, by decide, by decide, by decide, _, rfl⟩

end Sys2Proof.Tests
end

section
/-! ## Proofs: the state (10_state.md)

The flags of a state are read off as one record, `State.flags`; each shared operation gets one rule that says what it
does to that record, and `exec_flagEffect` says once what every instruction can do to it. O17 follows from that; O14
reads the power-on state element by element. -/

namespace Sys2Proof.Machine

/-! ### The radio's event flags -/

/-- After a clear every existing flag is false (10_state.md R60, 44_radio.md R250). -/
theorem Events.get?_clear {k : Nat} (hk : k < 8) : Events.clear.get? k = some false := by
  interval_cases k <;> rfl

/-- No flag is set after a clear, whatever the index. -/
theorem Events.get?_clear_ne_true (k : Nat) : Events.clear.get? k ≠ some true := by
  unfold Events.get?
  split <;> simp [Events.clear]

/-- Raising `disabled` sets flag 7 and no other. -/
theorem Events.get?_disabled {ev : Events} {k : Nat} (h : { ev with disabled := true }.get? k = some true) :
    ev.get? k = some true ∨ k = 7 := by
  unfold Events.get? at h ⊢
  split at h <;> simp_all

/-- Every flag set in `e` is set in `f`. -/
def Events.Le (e f : Events) : Prop := ∀ k, e.get? k = some true → f.get? k = some true

theorem Events.Le.refl (e : Events) : e.Le e := fun _ h => h

theorem Events.Le.trans {e f g : Events} (hef : e.Le f) (hfg : f.Le g) : e.Le g := fun k h => hfg k (hef k h)

/-- `Events.Le`, flag by flag. -/
theorem Events.le_of_flags {e f : Events} (hready : e.ready → f.ready) (haddress : e.address → f.address)
    (haddrmiss : e.addrmiss → f.addrmiss) (hpayload : e.payload → f.payload) (hcrcok : e.crcok → f.crcok)
    (hcrcerror : e.crcerror → f.crcerror) (hended : e.ended → f.ended) (hdisabled : e.disabled → f.disabled) :
    e.Le f := by
  intro k h
  unfold Events.get? at h ⊢
  split at h <;> simp_all

/-- The end of a reception clears no flag (44_radio.md R238). -/
theorem Events.le_received (e : Events) (crcOk : Bool) : e.Le (e.received crcOk) := by
  apply Events.le_of_flags <;> cases crcOk <;> simp [Events.received]

/-! ### All flags of a state -/

/-- The four completion flags and the radio's eight (10_state.md R55). -/
structure Flags where
  timer : Bool
  rtc : Bool
  i2c : Bool
  rng : Bool
  radio : Events

/-- The flags of a state. -/
def State.flags (s : State) : Flags where
  timer := s.timer.hd.done
  rtc := s.rtc.hd.done
  i2c := s.i2c.hd.done
  rng := s.rng.hd.done
  radio := s.radio.ev

/-- The completion flag of a peripheral. -/
def Flags.done (f : Flags) : Periph → Bool
  | .timer => f.timer
  | .rtc => f.rtc
  | .i2c => f.i2c
  | .rng => f.rng

/-- Write the completion flag of a peripheral. -/
def Flags.setDone (f : Flags) (p : Periph) (b : Bool) : Flags :=
  match p with
  | .timer => { f with timer := b }
  | .rtc => { f with rtc := b }
  | .i2c => { f with i2c := b }
  | .rng => { f with rng := b }

@[simp] theorem State.flags_radio (s : State) : s.flags.radio = s.radio.ev := rfl

@[simp] theorem State.flags_done (s : State) (p : Periph) : s.flags.done p = (s.handle p).done := by
  cases p <;> rfl

@[simp] theorem Flags.setDone_radio (f : Flags) (p : Periph) (b : Bool) : (f.setDone p b).radio = f.radio := by
  cases p <;> rfl

/-- A completion flag just written reads back; every other one reads as before. -/
theorem Flags.setDone_done (f : Flags) (p q : Periph) (b : Bool) :
    (f.setDone p b).done q = if q = p then b else f.done q := by
  cases p <;> cases q <;> rfl

theorem Flags.setDone_done_same (f : Flags) (p : Periph) (b : Bool) : (f.setDone p b).done p = b := by
  rw [f.setDone_done, if_pos rfl]

theorem Flags.setDone_done_other (f : Flags) {p q : Periph} (b : Bool) (hqp : q ≠ p) :
    (f.setDone p b).done q = f.done q := by
  rw [f.setDone_done, if_neg hqp]

/-- Every flag set in `f` is set in `g`. -/
def Flags.Le (f g : Flags) : Prop := (∀ p, f.done p = true → g.done p = true) ∧ f.radio.Le g.radio

theorem Flags.Le.refl (f : Flags) : f.Le f := ⟨fun _ h => h, .refl _⟩

theorem Flags.Le.trans {f g k : Flags} (hfg : f.Le g) (hgk : g.Le k) : f.Le k :=
  ⟨fun p h => hgk.1 p (hfg.1 p h), hfg.2.trans hgk.2⟩

/-- Setting a completion flag clears none. -/
theorem Flags.le_setDone_true (f : Flags) (p : Periph) : f.Le (f.setDone p true) := by
  refine ⟨fun q h => ?_, ?_⟩
  · by_cases hqp : q = p
    · subst hqp; exact f.setDone_done_same q true
    · rw [f.setDone_done_other true hqp, h]
  · rw [Flags.setDone_radio]; exact .refl _

/-! ### What the shared operations do to the flags -/

/-- Writing a handle writes its completion flag and no other flag. -/
theorem flags_setHandle (s : State) (p : Periph) (h : Handle) : (s.setHandle p h).flags = s.flags.setDone p h.done := by
  cases p <;> rfl

/-- Writing a handle with the same completion flag leaves every flag. -/
theorem flags_setHandle_of_done_eq {s : State} {p : Periph} {h : Handle} (hd : h.done = (s.handle p).done) :
    (s.setHandle p h).flags = s.flags := by
  rw [flags_setHandle, hd]
  cases p <;> rfl

theorem flags_genericHandler (p : Periph) (s : State) : (genericHandler p s).flags = s.flags :=
  flags_setHandle_of_done_eq rfl

/-- Publishing a completion clears no flag (20_memory.md R85). -/
theorem flags_le_completeHandle (s : State) (p : Periph) : s.flags.Le (s.completeHandle p).flags := by
  rw [State.completeHandle_eq, flags_setHandle]
  exact s.flags.le_setDone_true p

/-- An operation whose accepted effect leaves the flags leaves them when it is refused too. -/
theorem flags_settle {s : State} {x : Except Misuse State} (h : ∀ t, x = .ok t → t.flags = s.flags) :
    (settle s x).flags = s.flags := by
  obtain ⟨t, hx, ht⟩ | ⟨why, -, hr⟩ := settle_cases s x
  · rw [ht, h t hx]
  · rw [hr]; rfl

/-- A wait leaves the flags, or clears the completion flag of its own peripheral (40_blocking_primitive.md R143). -/
theorem flags_waitOn {p : Periph} {task : Task} {finish : State → State → State}
    (hfinish : ∀ s t : State, (finish s t).flags = t.flags) (s : State) :
    (waitOn p task finish s).flags = s.flags ∨ (waitOn p task finish s).flags = s.flags.setDone p false := by
  obtain ⟨-, -, h⟩ | ⟨-, -, h⟩ | ⟨-, h⟩ := waitOn_cases p task finish s
  · right
    rw [h, hfinish]
    exact flags_setHandle s p _
  · left; rw [h]; rfl
  · left; rw [h]; rfl

theorem flags_finishUnit (s t : State) : (finishUnit s t).flags = t.flags := rfl

theorem flags_finishByte (s t : State) : (finishByte s t).flags = t.flags := rfl

theorem flags_finishI2c (s t : State) : (finishI2c s t).flags = t.flags := by
  cases h : s.i2c.err <;> simp only [finishI2c, h] <;> rfl

/-! ### What the accepted host operations do to the flags -/

theorem flags_timerStart {ticks : BitVec 32} {s t : State} (h : timerStart ticks s = .ok t) : t.flags = s.flags := by
  obtain ⟨-, -, -, rfl⟩ := (timerStart_ok_iff ticks s t).1 h
  rfl

theorem flags_rtcStart {compare : BitVec 32} {s t : State} (h : rtcStart compare s = .ok t) : t.flags = s.flags := by
  obtain ⟨-, -, rfl⟩ := (rtcStart_ok_iff compare s t).1 h
  rfl

theorem flags_rngStart {s t : State} (h : rngStart s = .ok t) : t.flags = s.flags := by
  obtain ⟨-, rfl⟩ := (rngStart_ok_iff s t).1 h
  rfl

theorem flags_i2cStart {addr : Byte} {wdata : List Byte} {rlen : Byte} {s t : State}
    (h : i2cStart addr wdata rlen s = .ok t) : t.flags = s.flags := by
  obtain ⟨-, -, -, rfl⟩ := (i2cStart_ok_iff addr wdata rlen s t).1 h
  rfl

theorem flags_i2cEnable {s t : State} (h : i2cEnable s = .ok t) : t.flags = s.flags := by
  obtain ⟨-, rfl⟩ := (i2cEnable_ok_iff s t).1 h
  rfl

theorem flags_i2cDisable {s t : State} (h : i2cDisable s = .ok t) : t.flags = s.flags := by
  obtain ⟨-, rfl⟩ := (i2cDisable_ok_iff s t).1 h
  rfl

theorem flags_radioInit {c : RadioCfg} {s t : State} (h : radioInit c s = .ok t) : t.flags = s.flags := by
  obtain ⟨-, rfl⟩ := (radioInit_ok_iff c s t).1 h
  rfl

theorem flags_radioStartTx {strings : List (List Byte)} {s t : State} (h : radioStartTx strings s = .ok t) :
    t.flags = s.flags := by
  obtain ⟨-, -, -, rfl⟩ := (radioStartTx_ok_iff strings s t).1 h
  rfl

theorem flags_radioStartRx {s t : State} (h : radioStartRx s = .ok t) : t.flags = s.flags := by
  obtain ⟨-, -, rfl⟩ := (radioStartRx_ok_iff s t).1 h
  rfl

theorem flags_radioEventRead {k : Byte} {s t : State} (h : radioEventRead k s = .ok t) : t.flags = s.flags := by
  obtain ⟨_, -, rfl⟩ := (radioEventRead_ok_iff k s t).1 h
  rfl

theorem flags_hfclkStop {s t : State} (h : hfclkStop s = .ok t) : t.flags = s.flags := by
  obtain ⟨-, rfl⟩ := (hfclkStop_ok_iff s t).1 h
  rfl

theorem flags_drawNonce {rest : List Task} {s t : State} (h : drawNonce rest s = .ok t) : t.flags = s.flags := by
  obtain ⟨-, rfl⟩ := (drawNonce_ok_iff rest s t).1 h
  rfl

theorem flags_encodeBegin {r : Record} {rest : List Task} {s t : State} (h : encodeBegin r rest s = .ok t) :
    t.flags = s.flags := by
  obtain ⟨-, -, hdraw⟩ := (encodeBegin_ok_iff r rest s t).1 h
  exact (flags_drawNonce hdraw).trans rfl

theorem flags_encodePlain {r : Record} {s t : State} (h : encodePlain r s = .ok t) : t.flags = s.flags := by
  obtain ⟨-, -, rfl⟩ := (encodePlain_ok_iff r s t).1 h
  rfl

theorem flags_blockingStart {c : BlockingCall} {s t : State} (h : blockingStart c s = .ok t) : t.flags = s.flags := by
  cases c with
  | timer ticks => exact flags_timerStart h
  | rtc compare => exact flags_rtcStart h
  | i2c addr wdata rlen => exact flags_i2cStart h
  | rng => exact flags_rngStart h

theorem flags_blockingBegin {c : BlockingCall} {s t : State} (h : blockingBegin c s = .ok t) : t.flags = s.flags := by
  unfold blockingBegin at h
  split at h
  · rename_i u hu
    cases h
    exact (flags_blockingStart hu : u.flags = s.flags)
  · cases h

theorem DecodeFrame.flags_eq {s t : State} (h : DecodeFrame s t) : t.flags = s.flags := by
  unfold DecodeFrame at h
  exact (congrArg State.flags h).trans rfl

theorem flags_waitTxDone (s : State) : (waitTxDone s).flags = s.flags := by
  unfold waitTxDone
  split <;> rfl

theorem flags_waitRx (s : State) : (waitRx s).flags = s.flags := by
  unfold waitRx
  split <;> rfl

/-- `RNG_POLL` leaves the flags, or clears the generator's completion flag (43_rng.md R206). -/
theorem flags_settle_rngPoll (s : State) :
    (settle s (rngPoll s)).flags = s.flags ∨ (settle s (rngPoll s)).flags = s.flags.setDone .rng false := by
  obtain ⟨t, hok, ht⟩ | ⟨why, -, hr⟩ := settle_cases s (rngPoll s)
  · obtain ⟨-, rfl⟩ := (rngPoll_ok_iff s t).1 hok
    rw [ht]
    split
    · exact .inr rfl
    · exact .inl rfl
  · left; rw [hr]; rfl

/-! ### What the agents' steps do to the flags -/

/-- Writing the radio clears no flag if it clears none of the radio's. -/
theorem flags_le_setRadio {s : State} {x : Radio} (hev : s.radio.ev.Le x.ev) : s.flags.Le (s.setRadio x).flags :=
  ⟨fun _ h => h, hev⟩

theorem flags_le_timerTick (s : State) : s.flags.Le (timerTick s).flags := by
  unfold timerTick
  dsimp only
  split
  · exact flags_le_completeHandle (s.setTimer _) .timer
  · exact .refl _

theorem flags_le_rtcTick (s : State) : s.flags.Le (rtcTick s).flags := by
  unfold rtcTick
  dsimp only
  split
  · exact flags_le_completeHandle (s.setRtc _) .rtc
  · exact .refl _

theorem flags_le_rngProduce (v : Byte) (s : State) : s.flags.Le (rngProduce v s).flags :=
  flags_le_completeHandle (s.setRng _) .rng

theorem flags_le_i2cComplete (a : Answer) (s : State) : s.flags.Le (i2cComplete a s).flags := by
  unfold i2cComplete
  split
  · exact flags_le_completeHandle (s.setI2c _) .i2c
  · exact .refl _

theorem flags_startTask (s : State) : (startTask s).flags = s.flags := by
  obtain ⟨-, h⟩ | ⟨-, h⟩ := startTask_cases s <;> rw [h] <;> rfl

theorem flags_le_radioRamp (s : State) : s.flags.Le (radioRamp s).flags := by
  have hready : s.flags.Le (s.setEvents { s.radio.ev with ready := true }).flags :=
    flags_le_setRadio (Events.le_of_flags (fun _ => rfl) id id id id id id id)
  unfold radioRamp
  dsimp only
  split
  · rwa [flags_startTask]
  · exact hready

theorem flags_le_chainDisable (s : State) : s.flags.Le (chainDisable s).flags := by
  obtain ⟨-, h⟩ | ⟨-, h⟩ := chainDisable_cases s <;> rw [h]
  · exact flags_le_setRadio (Events.le_of_flags id id id id id id id fun _ => rfl)
  · exact .refl _

theorem flags_le_radioTxEnd (s : State) : s.flags.Le (radioTxEnd s).flags := by
  refine Flags.Le.trans ?_ (flags_le_chainDisable _)
  exact flags_le_setRadio (s := s.setAir _) (Events.le_of_flags id id id id id id (fun _ => rfl) id)

theorem flags_le_rxOffer (f : Frame) (rssi : Rssi) (s : State) : s.flags.Le (rxOffer f rssi s).flags := by
  obtain ⟨-, h⟩ | ⟨-, h⟩ := rxOffer_cases f rssi s <;> rw [h]
  · exact flags_le_setRadio (Events.le_of_flags id (fun _ => rfl) id id id id id id)
  · exact flags_le_setRadio (Events.le_of_flags id id (fun _ => rfl) id id id id id)

theorem flags_le_rxEnd (f : Frame) (tail : List Byte) (s : State) : s.flags.Le (rxEnd f tail s).flags :=
  Flags.Le.trans (flags_le_setRadio (s := s.memWrite .buf f.body.length tail) (Events.le_received _ _))
    (flags_le_chainDisable _)

theorem flags_le_receiveFrame (f : Frame) (rssi : Rssi) (s : State) : s.flags.Le (receiveFrame f rssi s).flags := by
  unfold receiveFrame
  split
  · exact flags_le_rxOffer f rssi s
  · exact .refl _

/-- A step that is taken only while it is enabled clears no flag if its effect clears none (log 9). -/
theorem flags_le_ite {c : Prop} [Decidable c] {s t : State} (h : s.flags.Le t.flags) :
    s.flags.Le (if c then t else s).flags := by
  split
  · exact h
  · exact .refl _

/-! ### What an instruction does to the flags -/

/-- The operations that read a completion flag and clear it, with the peripheral (10_state.md R55). -/
def flagReaders : List (Periph × Instr) :=
  [(.timer, .timerWait), (.rtc, .rtcWait), (.i2c, .i2cWait), (.rng, .rngWait), (.rng, .rngPoll)]

/-- Everything an instruction can do to the flags (10_state.md R55). -/
inductive FlagEffect (i : Instr) (s t : State) : Prop
  /-- every flag is as it was -/
  | kept (h : t.flags = s.flags)
  /-- a reader clears the completion flag of its peripheral -/
  | read (p : Periph) (hi : (p, i) ∈ flagReaders) (h : t.flags = s.flags.setDone p false)
  /-- all radio flags are cleared -/
  | reset (hi : i = .radioEventResetAll ∨ i = .irqRadioRx) (h : t.flags = { s.flags with radio := Events.clear })
  /-- `RADIO_DISABLE` raises `ev.disabled` (44_radio.md R245) -/
  | disable (hi : i = .radioDisable)
      (h : t.flags = { s.flags with radio := { s.flags.radio with disabled := true } })
  /-- an agent publishes; no flag is cleared (20_memory.md R85) -/
  | publish (hi : i.agent ≠ some .host) (h : s.flags.Le t.flags)

theorem FlagEffect.of_settle {i : Instr} {s : State} {x : Except Misuse State}
    (h : ∀ {t}, x = .ok t → t.flags = s.flags) : FlagEffect i s (settle s x) :=
  .kept (flags_settle fun _ => h)

/-- A clear of a completion flag by one of its readers. -/
theorem FlagEffect.of_read {i : Instr} {s t : State} (p : Periph) (hi : (p, i) ∈ flagReaders)
    (h : t.flags = s.flags ∨ t.flags = s.flags.setDone p false) : FlagEffect i s t :=
  h.elim .kept (.read p hi)

theorem FlagEffect.of_genericIrq {i : Instr} {s : State} (line : Bool) (p : Periph) :
    FlagEffect i s (serviceIrq line (genericHandler p) s) := by
  obtain ⟨-, h⟩ | ⟨-, h⟩ := serviceIrq_cases line (genericHandler p) s <;> rw [h]
  · exact .kept (flags_genericHandler p s)
  · exact .kept rfl

theorem flags_radioRxHandler (s : State) : (radioRxHandler s).flags = { s.flags with radio := Events.clear } := by
  unfold radioRxHandler wake
  split <;> rfl

theorem flagEffect_irqRadioTx (s : State) (line : Bool) :
    FlagEffect .irqRadioTx s (serviceIrq line radioTxHandler s) := by
  obtain ⟨-, h⟩ | ⟨-, h⟩ := serviceIrq_cases line radioTxHandler s <;> rw [h] <;> exact .kept rfl

theorem flagEffect_irqRadioRx (s : State) (line : Bool) :
    FlagEffect .irqRadioRx s (serviceIrq line radioRxHandler s) := by
  obtain ⟨-, h⟩ | ⟨-, h⟩ := serviceIrq_cases line radioRxHandler s <;> rw [h]
  · exact .reset (.inr rfl) (flags_radioRxHandler s)
  · exact .kept rfl

theorem flagEffect_radioRxStore {s t : State} (h : execRadioRxStore s = .next t) : FlagEffect .radioRxStore s t := by
  unfold execRadioRxStore at h
  split at h
  · cases h; exact .kept rfl
  · split at h <;> cases h
    exact .kept rfl

theorem flagEffect_radioRxEnd {tail : List Byte} {s t : State} (h : execRadioRxEnd tail s = .next t) :
    FlagEffect (.radioRxEnd tail) s t := by
  cases h
  split
  · exact .kept rfl
  · exact .publish nofun (flags_le_ite (flags_le_rxEnd _ tail s))

theorem flagEffect_envAirDeliver {n : Nat} {body : List Byte} {crc : BitVec 24} {rssi : Rssi} {s t : State}
    (h : execEnvAirDeliver n body crc rssi s = .next t) : FlagEffect (.envAirDeliver n body crc rssi) s t := by
  cases h
  split
  · exact .kept rfl
  · exact .publish nofun (flags_le_ite (flags_le_receiveFrame _ rssi (s.dropFrame n)))

/-- What each instruction does to the flags. -/
theorem exec_flagEffect (i : Instr) (s t : State) (h : exec i s = .next t) : FlagEffect i s t := by
  cases i with
  | timerStart ticks => cases h; exact .of_settle flags_timerStart
  | timerWait => cases h; exact .of_read .timer (by simp [flagReaders]) (flags_waitOn flags_finishUnit s)
  | rtcStart compare => cases h; exact .of_settle flags_rtcStart
  | rtcWait => cases h; exact .of_read .rtc (by simp [flagReaders]) (flags_waitOn flags_finishUnit s)
  | rngStart => cases h; exact .of_settle flags_rngStart
  | rngWait => cases h; exact .of_read .rng (by simp [flagReaders]) (flags_waitOn flags_finishByte s)
  | rngPoll => cases h; exact .of_read .rng (by simp [flagReaders]) (flags_settle_rngPoll s)
  | i2cEnable => cases h; exact .of_settle flags_i2cEnable
  | i2cDisable => cases h; exact .of_settle flags_i2cDisable
  | i2cStart addr wdata rlen => cases h; exact .of_settle flags_i2cStart
  | i2cWait => cases h; exact .of_read .i2c (by simp [flagReaders]) (flags_waitOn flags_finishI2c s)
  | radioInitTx => cases h; exact .of_settle flags_radioInit
  | radioInitRx => cases h; exact .of_settle flags_radioInit
  | radioStartTx strings => cases h; exact .of_settle flags_radioStartTx
  | radioStartRx => cases h; exact .of_settle flags_radioStartRx
  | radioPayload => cases h; exact .kept rfl
  | radioEventRead k => cases h; exact .of_settle flags_radioEventRead
  | radioEventResetAll => cases h; exact .reset (.inl rfl) rfl
  | radioDisable => cases h; exact .disable rfl rfl
  | radioTakeRx => cases h; exact .kept rfl
  | codecEncodeEnc r => cases h; exact .of_settle flags_encodeBegin
  | codecEncodePlain r => cases h; exact .of_settle flags_encodePlain
  | codecDecode v => cases h; exact .kept (decodeFrame_decodePayload _ _ s).flags_eq
  | hfclkStart => cases h; exact .kept rfl
  | hfclkStop => cases h; exact .of_settle flags_hfclkStop
  | timerTick => cases h; exact .publish nofun (flags_le_ite (flags_le_timerTick s))
  | rtcTick => cases h; exact .publish nofun (flags_le_ite (flags_le_rtcTick s))
  | rngProduce v => cases h; exact .publish nofun (flags_le_ite (flags_le_rngProduce v s))
  | i2cComplete a => cases h; exact .publish nofun (flags_le_ite (flags_le_i2cComplete a s))
  | radioRamp => cases h; exact .publish nofun (flags_le_ite (flags_le_radioRamp s))
  | radioTxEnd => cases h; exact .publish nofun (flags_le_ite (flags_le_radioTxEnd s))
  | radioRxOffer f rssi => cases h; exact .publish nofun (flags_le_ite (flags_le_rxOffer f rssi s))
  | radioRxStore => exact flagEffect_radioRxStore h
  | radioRxEnd tail => exact flagEffect_radioRxEnd h
  | radioShortStart =>
    cases h
    exact .publish nofun (flags_le_ite (by rw [flags_startTask]; exact .refl _))
  | radioShortDisable => cases h; exact .publish nofun (flags_le_ite (flags_le_chainDisable s))
  | irqTimer => cases h; exact .of_genericIrq _ .timer
  | irqRtc => cases h; exact .of_genericIrq _ .rtc
  | irqRng => cases h; exact .of_genericIrq _ .rng
  | irqI2c => cases h; exact .of_genericIrq _ .i2c
  | irqRadioTx => cases h; exact flagEffect_irqRadioTx s _
  | irqRadioRx => cases h; exact flagEffect_irqRadioRx s _
  | envAirDeliver n body crc rssi => exact flagEffect_envAirDeliver h
  | envAirDrop n => cases h; exact .kept rfl
  | waitTxDone => cases h; exact .kept (flags_waitTxDone s)
  | blocking c => cases h; exact .of_settle flags_blockingBegin
  | drawNonce => cases h; exact .of_settle flags_drawNonce
  | sendEncrypted r => cases h; exact .of_settle flags_encodeBegin
  | waitRx => cases h; exact .kept (flags_waitRx s)
  | pktPlain ty content => cases h; exact .kept (decodeFrame_decodePlain ty content s).flags_eq
  | pktEnc ty content => cases h; exact .kept (decodeFrame_decodeEnc _ ty content s).flags_eq
  | cfgword board major minor patch => cases h; exact .kept rfl

/-! ### R55: who sets a flag and who clears one -/

/-- A host operation sets no completion flag. -/
theorem FlagEffect.done_of_host {i : Instr} {s t : State} (e : FlagEffect i s t) (hi : i.agent = some .host)
    {p : Periph} (ht : t.flags.done p = true) : s.flags.done p = true := by
  cases e with
  | kept h => rwa [← h]
  | read q _ h =>
    rw [h] at ht
    by_cases hpq : p = q
    · subst hpq
      rw [Flags.setDone_done_same] at ht
      cases ht
    · rwa [Flags.setDone_done_other _ _ hpq] at ht
  | reset _ h => rw [h] at ht; exact ht
  | disable _ h => rw [h] at ht; exact ht
  | publish hn _ => exact absurd hi hn

/-- A host operation sets no radio flag, but for `RADIO_DISABLE`'s. -/
theorem FlagEffect.event_of_host {i : Instr} {s t : State} (e : FlagEffect i s t) (hi : i.agent = some .host) {k : Nat}
    (ht : t.flags.radio.get? k = some true) :
    s.flags.radio.get? k = some true ∨ (i = .radioDisable ∧ k = 7) := by
  cases e with
  | kept h => left; rwa [← h]
  | read q _ h => left; rwa [h, Flags.setDone_radio] at ht
  | reset _ h => rw [h] at ht; exact absurd ht (Events.get?_clear_ne_true k)
  | disable hd h =>
    rw [h] at ht
    exact (Events.get?_disabled ht).imp_right fun hk => ⟨hd, hk⟩
  | publish hn _ => exact absurd hi hn

/-- Only its readers clear a completion flag. -/
theorem FlagEffect.reader_of_done_cleared {i : Instr} {s t : State} (e : FlagEffect i s t) {p : Periph}
    (hs : s.flags.done p = true) (ht : t.flags.done p = false) : (p, i) ∈ flagReaders := by
  have hne : t.flags.done p ≠ s.flags.done p := by rw [hs, ht]; decide
  cases e with
  | kept h => rw [h] at hne; exact absurd rfl hne
  | read q hr h =>
    by_cases hpq : p = q
    · subst hpq; exact hr
    · rw [h, Flags.setDone_done_other _ _ hpq] at hne
      exact absurd rfl hne
  | reset _ h => rw [h] at hne; exact absurd rfl hne
  | disable _ h => rw [h] at hne; exact absurd rfl hne
  | publish _ h => exact absurd ((h.1 p hs).trans hs.symm) hne

/-- Only `RADIO_EVENT_RESET_ALL` and the receive handler clear a radio flag. -/
theorem FlagEffect.reset_of_event_cleared {i : Instr} {s t : State} (e : FlagEffect i s t) {k : Nat}
    (hs : s.flags.radio.get? k = some true) (ht : t.flags.radio.get? k = some false) :
    i = .radioEventResetAll ∨ i = .irqRadioRx := by
  have cause_of_le (hle : s.flags.radio.Le t.flags.radio) : i = .radioEventResetAll ∨ i = .irqRadioRx := by
    rw [hle k hs] at ht
    cases ht
  cases e with
  | kept h => exact cause_of_le (h ▸ .refl _)
  | read q _ h => exact cause_of_le (by rw [h, Flags.setDone_radio]; exact .refl _)
  | reset hi _ => exact hi
  | disable _ h =>
    exact cause_of_le (by rw [h]; exact Events.le_of_flags id id id id id id id fun _ => rfl)
  | publish _ h => exact cause_of_le h.2

/-- After `RADIO_EVENT_RESET_ALL` a reader of any flag returns false. -/
theorem radioEventRead_after_resetAll {s t : State} {k : Byte} (h : exec .radioEventResetAll s = .next t)
    (hk : k.toNat ≤ 7) :
    exec (.radioEventRead k) t = .next { t with host := { t.host with result := .ok (.flag false) } } := by
  have hclear : t.radio.ev.get? k.toNat = some false := by
    cases h
    exact Events.get?_clear (by omega)
  have hread := (radioEventRead_ok_iff k t _).2 ⟨false, hclear, rfl⟩
  change Host.Outcome.next (settle t (radioEventRead k t)) = _
  rw [hread, settle_ok]

/-- Settles O17: each part is read off `exec_flagEffect`, which says what every instruction does to the flags. -/
theorem flagsAreSetByAgentsAndClearedByTheirReaders : Obligations.FlagsAreSetByAgentsAndClearedByTheirReaders := by
  unfold Obligations.FlagsAreSetByAgentsAndClearedByTheirReaders
  simp only [← State.flags_done, ← State.flags_radio]
  refine ⟨fun i s t hi h => ?_, fun i s t h => ?_, fun s t k => radioEventRead_after_resetAll⟩
  · have e := exec_flagEffect i s t h
    exact ⟨fun p => e.done_of_host hi, fun k => e.event_of_host hi⟩
  · have e := exec_flagEffect i s t h
    exact ⟨fun p => e.reader_of_done_cleared, fun k => e.reset_of_event_cleared⟩

/-! ### R60: the state after power-on -/

/-- Every handle is Idle with flag and enable clear after power-on. -/
theorem State.reset_handle (p : Periph) : State.reset.handle p = { phase := .idle, done := false, inten := false } := by
  cases p <;> rfl

/-- Settles O14: handles and radio flags by their lemmas, every other element is the value `State.reset` lists. -/
theorem powerOnState : Obligations.PowerOnState := by
  have hev : ∀ k, k < 8 → State.reset.radio.ev.get? k = some false := fun k => Events.get?_clear
  exact ⟨State.reset_handle, rfl, rfl, rfl, rfl, rfl, rfl, rfl, rfl, rfl, rfl, rfl, rfl, hev, rfl, rfl, rfl, rfl, rfl,
    rfl, rfl, rfl⟩

end Sys2Proof.Machine
end

section
/-! ## Proofs: the encodings (30_encoding.md)

The decoder reads a payload's tag as a number, `leNat [lo, hi]`; R103 speaks of its bits. The tag word `hi ++ lo` joins
the two: it has that number as its value, its top bit is the flag, and comparing with `2^15` tests that bit. -/

namespace Sys2Proof.Machine

/-! ### R103: the type tag as a word -/

/-- `le16` of two bytes is the value of the word with the second byte on top (00_scope.md R16). -/
theorem leNat_pair (lo hi : Byte) : leNat [lo, hi] = (hi ++ lo : BitVec 16).toNat := by
  rw [BitVec.toNat_append, ← Nat.shiftLeft_add_eq_or_of_lt lo.isLt, Nat.shiftLeft_eq]
  simp only [leNat]
  omega

/-- The tag's top bit is the top bit of the second byte. -/
theorem tag_getLsbD_15 (lo hi : Byte) : (hi ++ lo : BitVec 16).getLsbD 15 = hi.getLsbD 7 :=
  BitVec.getLsbD_append.trans (if_neg (by decide))

/-- The tag's number is below `2^15` exactly when bit 7 of the second byte is clear. -/
theorem leNat_pair_lt_iff (lo hi : Byte) : leNat [lo, hi] < 32768 ↔ hi.getLsbD 7 = false := by
  have hmsb : (hi ++ lo : BitVec 16).msb = hi.getLsbD 7 :=
    (BitVec.msb_eq_getLsbD_last _).trans (tag_getLsbD_15 lo hi)
  rw [← hmsb, BitVec.msb_eq_false_iff_two_mul_lt, leNat_pair]
  omega

/-- The type the decoder takes from the tag's number is the low 15 bits of the tag. -/
theorem ofNat_leNat_pair (lo hi : Byte) :
    BitVec.ofNat 15 (leNat [lo, hi]) = (hi ++ lo : BitVec 16).extractLsb' 0 15 := by
  rw [leNat_pair, BitVec.ofNat_toNat, BitVec.setWidth_eq_extractLsb' (by decide)]

/-- With bit 7 of its second byte set, a payload is the encrypted layout (30_encoding.md R103). -/
theorem decodePacket_of_flag_set {lo hi : Byte} (content : List Byte) (h : hi.getLsbD 7 = true) :
    decodePacket (lo :: hi :: content) = .ok (.pktEnc ((hi ++ lo : BitVec 16).extractLsb' 0 15) content, []) := by
  have htag : ¬ leNat [lo, hi] < 32768 := by simp [leNat_pair_lt_iff, h]
  rw [← ofNat_leNat_pair]
  exact if_neg htag

/-- With bit 7 of its second byte clear, a payload is the plaintext layout (30_encoding.md R103). -/
theorem decodePacket_of_flag_clear {lo hi : Byte} (content : List Byte) (h : hi.getLsbD 7 = false) :
    decodePacket (lo :: hi :: content) = .ok (.pktPlain ((hi ++ lo : BitVec 16).extractLsb' 0 15) content, []) := by
  rw [← ofNat_leNat_pair]
  exact if_pos ((leNat_pair_lt_iff lo hi).2 h)

/-- Settles O5: the flag is the tag word's top bit, and the decoder's comparison branches on it. -/
theorem packetTagSelectsTheLayout : Obligations.PacketTagSelectsTheLayout :=
  fun lo hi content => ⟨tag_getLsbD_15 lo hi, decodePacket_of_flag_set content, decodePacket_of_flag_clear content⟩

end Sys2Proof.Machine
end

section
/-! ## Proofs: the one-shot timer and the real-time counter (41_timer_rtc.md)

Both starts have the same shape: a word with one `LE32` operand, and an operation that is either accepted, with the
effect `timerStart_ok_iff` and `rtcStart_ok_iff` give, or refused. The two rules of the first half say this once. -/

namespace Sys2Proof.Machine

/-! ### An `LE32` operand, and an operation with `require` clauses -/

/-- Reading as many bytes as stand in front gives exactly these. -/
theorem takeBytes_append {n : Nat} {xs : List Byte} (hn : xs.length = n) (bs : List Byte) :
    takeBytes n (xs ++ bs) = .ok (xs, bs) := by
  subst hn
  simp [takeBytes]

/-- An `LE32` operand is read back, and the stream goes on after it (30_encoding.md R126). -/
theorem take32_leBytes (x : BitVec 32) (bs : List Byte) : take32 (leBytes 4 x.toNat ++ bs) = .ok (x, bs) := by
  have hread : BitVec.ofNat 32 (leNat (leBytes 4 x.toNat)) = x := by
    rw [leNat_leBytes_of_lt (n := 4) x.isLt, BitVec.ofNat_toNat, BitVec.setWidth_eq]
  rw [take32, takeBytes_append (leBytes_length 4 x.toNat) bs]
  exact congrArg (fun y => Except.ok (y, bs)) hread

/-- An operation that is accepted exactly under `P`, with the effect `e`: under `P` its end is `e`, otherwise only the
refused mark and its record change (00_scope.md R18, 40_blocking_primitive.md R147). -/
theorem settle_of_ok_iff {s e : State} {x : Except Misuse State} {P : Prop} (hx : ∀ t, x = .ok t ↔ P ∧ t = e) :
    (P → settle s x = e) ∧
      (¬ P → ∃ why, settle s x = { s with refused := true, host := { s.host with result := .refused why } }) := by
  refine ⟨fun hP => ?_, fun hP => ?_⟩
  · rw [(hx e).2 ⟨hP, rfl⟩, settle_ok]
  · obtain ⟨t, hok, -⟩ | ⟨why, -, hr⟩ := settle_cases s x
    · exact absurd ((hx t).1 hok).1 hP
    · exact ⟨why, hr.trans (s.refuse_eq why)⟩

/-! ### The timer -/

/-- The word of `TIMER_START` (41_timer_rtc.md R162). -/
theorem decodeOp_timerStart (ticks : BitVec 32) (bs : List Byte) :
    decodeOp (0x01#8 :: (leBytes 4 ticks.toNat ++ bs)) = .ok (.timerStart ticks, bs) :=
  congrArg (decodedAs .timerStart) (take32_leBytes ticks bs)

/-- `TIMER_START` ends as its `require` clauses say. -/
theorem exec_timerStart (ticks : BitVec 32) (s : State) :
    exec (.timerStart ticks) s = .next (settle s (timerStart ticks s)) := rfl

/-- Settles O21: the word by `decodeOp_timerStart`; effect and refusal by `timerStart_ok_iff`. -/
theorem timerStartArmsTheTimer : Obligations.TimerStartArmsTheTimer := by
  intro ticks bs s
  simp only [exec_timerStart, Host.Outcome.next.injEq]
  refine ⟨decodeOp_timerStart ticks bs, settle_of_ok_iff fun t => ?_⟩
  simp only [timerStart_ok_iff, and_assoc]

/-! ### The real-time counter -/

/-- The word of `RTC_START` (41_timer_rtc.md R169). -/
theorem decodeOp_rtcStart (compare : BitVec 32) (bs : List Byte) :
    decodeOp (0x03#8 :: (leBytes 4 compare.toNat ++ bs)) = .ok (.rtcStart compare, bs) :=
  congrArg (decodedAs .rtcStart) (take32_leBytes compare bs)

/-- `RTC_START` ends as its `require` clauses say. -/
theorem exec_rtcStart (compare : BitVec 32) (s : State) :
    exec (.rtcStart compare) s = .next (settle s (rtcStart compare s)) := rfl

/-- Settles O22: the word by `decodeOp_rtcStart`; effect and refusal by `rtcStart_ok_iff`. -/
theorem rtcStartClearsAndArmsTheCounter : Obligations.RtcStartClearsAndArmsTheCounter := by
  intro compare bs s
  simp only [exec_rtcStart, Host.Outcome.next.injEq]
  refine ⟨decodeOp_rtcStart compare bs, settle_of_ok_iff fun t => ?_⟩
  simp only [rtcStart_ok_iff, and_assoc]

end Sys2Proof.Machine
end

section
/-! ## Proofs: the blocking I2C transaction driver (42_i2c.md)

When the three operations are accepted and what they then answer is `i2cEnable_ok_iff`, `i2cDisable_ok_iff` and
`i2cStart_ok_iff`; what stands here are their words and the reason the first two are refused with. -/

namespace Sys2Proof.Machine

/-! ### R182 and R183: the bus switched on and off -/

/-- An operation whose `require` clauses fail with the reason `why` leaves the refused mark and the record of `why`, and
no other write (00_scope.md R18, 40_blocking_primitive.md R147). -/
theorem settle_of_error {s : State} {x : Except Misuse State} {why : Misuse} (hx : x = .error why) :
    settle s x = { s with refused := true, host := { s.host with result := .refused why } } := by
  rw [hx, settle_error, s.refuse_eq]

/-- The word of `I2C_ENABLE` has no operands (42_i2c.md R182). -/
theorem decodeOp_i2cEnable (bs : List Byte) : decodeOp (0x08#8 :: bs) = .ok (.i2cEnable, bs) := rfl

/-- The word of `I2C_DISABLE` has no operands (42_i2c.md R183). -/
theorem decodeOp_i2cDisable (bs : List Byte) : decodeOp (0x09#8 :: bs) = .ok (.i2cDisable, bs) := rfl

/-- `I2C_ENABLE` ends as its `require` clause says. -/
theorem exec_i2cEnable (s : State) : exec .i2cEnable s = .next (settle s (i2cEnable s)) := rfl

/-- `I2C_DISABLE` ends as its `require` clause says. -/
theorem exec_i2cDisable (s : State) : exec .i2cDisable s = .next (settle s (i2cDisable s)) := rfl

/-- The only reason `I2C_ENABLE` is refused: the driver is not Idle (42_i2c.md R182). -/
theorem i2cEnable_of_not_idle {s : State} (h : s.i2c.hd.phase ≠ .idle) : i2cEnable s = .error (.notIdle .i2c) :=
  if_neg h

/-- The only reason `I2C_DISABLE` is refused: the driver is not Idle (42_i2c.md R183). -/
theorem i2cDisable_of_not_idle {s : State} (h : s.i2c.hd.phase ≠ .idle) : i2cDisable s = .error (.notIdle .i2c) :=
  if_neg h

/-- Settles O31: when Idle by `i2cEnable_ok_iff` and `i2cDisable_ok_iff`; while Active the driver is not Idle, and both
are refused for that. -/
theorem i2cEnableAndDisable : Obligations.I2cEnableAndDisable := by
  intro bs s
  simp only [exec_i2cEnable, exec_i2cDisable, Host.Outcome.next.injEq]
  refine ⟨decodeOp_i2cEnable bs, decodeOp_i2cDisable bs, (settle_of_ok_iff (i2cEnable_ok_iff s)).1,
    (settle_of_ok_iff (i2cDisable_ok_iff s)).1, fun hactive => ?_⟩
  have hbusy : s.i2c.hd.phase ≠ .idle := by simp [hactive]
  exact ⟨settle_of_error (i2cEnable_of_not_idle hbusy), settle_of_error (i2cDisable_of_not_idle hbusy)⟩

/-! ### R184: the start of a transaction -/

/-- A string of at most 255 bytes behind its length byte is read back, and the stream goes on after it
(30_encoding.md R126). -/
theorem takeCounted_of_length_le {xs : List Byte} (hn : xs.length ≤ 255) (bs : List Byte) :
    takeCounted (BitVec.ofNat 8 xs.length :: (xs ++ bs)) = .ok (xs, bs) := by
  have hlen : xs.length = (BitVec.ofNat 8 xs.length).toNat := by rw [BitVec.toNat_ofNat]; omega
  exact takeBytes_append hlen bs

/-- The operands of `I2C_START` are read back in their order (30_encoding.md R126). -/
theorem takeI2c_of_length_le (addr rlen : Byte) {wdata : List Byte} (hn : wdata.length ≤ 255) (bs : List Byte) :
    takeI2c (addr :: (BitVec.ofNat 8 wdata.length :: (wdata ++ rlen :: bs))) = .ok ((addr, wdata, rlen), bs) := by
  simp only [takeI2c, takeCounted_of_length_le hn]

/-- The word of `I2C_START` (42_i2c.md R184). -/
theorem decodeOp_i2cStart (addr rlen : Byte) {wdata : List Byte} (hn : wdata.length ≤ 255) (bs : List Byte) :
    decodeOp (0x0A#8 :: addr :: (BitVec.ofNat 8 wdata.length :: (wdata ++ rlen :: bs)))
      = .ok (.i2cStart addr wdata rlen, bs) :=
  congrArg (decodedAs fun x : Byte × List Byte × Byte => .i2cStart x.1 x.2.1 x.2.2)
    (takeI2c_of_length_le addr rlen hn bs)

/-- `I2C_START` ends as its `require` clauses say. -/
theorem exec_i2cStart (addr : Byte) (wdata : List Byte) (rlen : Byte) (s : State) :
    exec (.i2cStart addr wdata rlen) s = .next (settle s (i2cStart addr wdata rlen s)) := rfl

/-- Settles O32: the word by `decodeOp_i2cStart`; effect and refusal by `i2cStart_ok_iff`, with the operand clause by
`txnOk_iff`. The recorded address is the number of the operand byte as a seven-bit word. -/
theorem i2cStartRecordsTheTransaction : Obligations.I2cStartRecordsTheTransaction := by
  intro addr rlen wdata bs s
  simp only [exec_i2cStart, Host.Outcome.next.injEq, BitVec.ofNat_toNat]
  refine ⟨fun hn => decodeOp_i2cStart addr rlen hn bs, settle_of_ok_iff fun t => ?_⟩
  simp only [i2cStart_ok_iff, txnOk_iff, and_assoc]

end Sys2Proof.Machine
end

section
/-! ## Proofs: the random-number generator interface (43_rng.md)

When the two operations are accepted and what they then answer is `rngStart_ok_iff` and `rngPoll_ok_iff`; what stands
here are their words and the reasons they are refused with. -/

namespace Sys2Proof.Machine

/-- The word of `RNG_START` has no operands (43_rng.md R202). -/
theorem decodeOp_rngStart (bs : List Byte) : decodeOp (0x05#8 :: bs) = .ok (.rngStart, bs) := rfl

/-- The word of `RNG_POLL` has no operands (43_rng.md R206). -/
theorem decodeOp_rngPoll (bs : List Byte) : decodeOp (0x07#8 :: bs) = .ok (.rngPoll, bs) := rfl

/-- `RNG_START` ends as its `require` clause says. -/
theorem exec_rngStart (s : State) : exec .rngStart s = .next (settle s (rngStart s)) := rfl

/-- `RNG_POLL` ends as its `require` clause says; it never sleeps. -/
theorem exec_rngPoll (s : State) : exec .rngPoll s = .next (settle s (rngPoll s)) := rfl

/-- The only reason `RNG_START` is refused: the generator is not Idle (43_rng.md R202). -/
theorem rngStart_of_not_idle {s : State} (h : s.rng.hd.phase ≠ .idle) : rngStart s = .error (.notIdle .rng) :=
  if_neg h

/-- The only reason `RNG_POLL` is refused: the generator is not Active (43_rng.md R206). -/
theorem rngPoll_of_not_active {s : State} (h : s.rng.hd.phase ≠ .active) : rngPoll s = .error (.notActive .rng) :=
  if_neg h

/-- Settles O27: accepted, by `rngStart_ok_iff` and `rngPoll_ok_iff`, the completion flag choosing between the poll's two
answers; refused, because Active is not Idle and Idle is not Active. -/
theorem rngStartAndPoll : Obligations.RngStartAndPoll := by
  intro bs s
  simp only [exec_rngStart, exec_rngPoll, Host.Outcome.next.injEq]
  have hpoll := (settle_of_ok_iff (s := s) (rngPoll_ok_iff s)).1
  refine ⟨decodeOp_rngStart bs, decodeOp_rngPoll bs, (settle_of_ok_iff (rngStart_ok_iff s)).1, fun hactive => ?_,
    fun hactive hdone => ?_, fun hactive hdone => ?_, fun hidle => ?_⟩
  · exact settle_of_error (rngStart_of_not_idle (by simp [hactive]))
  · rw [hpoll hactive, if_neg (by simp [hdone])]
  · rw [hpoll hactive, if_pos hdone]
  · exact settle_of_error (rngPoll_of_not_active (by simp [hidle]))

end Sys2Proof.Machine
end

section
/-! ## Proofs: the radio link layer, the host's side (44_radio.md)

When the inits and the starts are accepted and what they then answer is `radioInit_ok_iff`, `radioStartTx_ok_iff` and
`radioStartRx_ok_iff`; what stands here are the words, the reason an init is refused with, and what `BUF` reads as after a
packet is placed in it. -/

namespace Sys2Proof.Machine

/-! ### R217 and R218: the inits -/

/-- The word of `RADIO_INIT_TX` has no operands (44_radio.md R217). -/
theorem decodeOp_radioInitTx (bs : List Byte) : decodeOp (0x10#8 :: bs) = .ok (.radioInitTx, bs) := rfl

/-- The word of `RADIO_INIT_RX` has no operands (44_radio.md R218). -/
theorem decodeOp_radioInitRx (bs : List Byte) : decodeOp (0x11#8 :: bs) = .ok (.radioInitRx, bs) := rfl

/-- Both inits are the same operation and end as its `require` clause says; only the role they write differs
(44_radio.md R218). -/
theorem exec_radioInit {i : Instr} {c : RadioCfg}
    (hi : (i, c) ∈ [(Instr.radioInitTx, RadioCfg.txCfg), (.radioInitRx, .rxCfg)]) (s : State) :
    exec i s = .next (settle s (radioInit c s)) := by
  simp only [List.mem_cons, Prod.mk.injEq, List.not_mem_nil, or_false] at hi
  obtain ⟨rfl, rfl⟩ | ⟨rfl, rfl⟩ := hi
  · rfl
  · rfl

/-- The only reason an init is refused: the radio is not Disabled (44_radio.md R217). -/
theorem radioInit_of_not_disabled {s : State} (c : RadioCfg) (h : s.radio.state ≠ .disabled) :
    radioInit c s = .error .radioNotDisabled := if_neg h

/-- Settles O37: for either role, accepted by `radioInit_ok_iff`, refused by `radioInit_of_not_disabled`. -/
theorem radioInitWritesTheFixedConfiguration : Obligations.RadioInitWritesTheFixedConfiguration := by
  intro bs s i c
  refine ⟨decodeOp_radioInitTx bs, decodeOp_radioInitRx bs, fun hi => ?_⟩
  rw [exec_radioInit hi]
  exact ⟨fun hdisabled => congrArg Host.Outcome.next ((settle_of_ok_iff (radioInit_ok_iff c s)).1 hdisabled),
    fun hbusy => congrArg Host.Outcome.next (settle_of_error (radioInit_of_not_disabled c hbusy))⟩

/-! ### R222: the start of a transmission -/

/-- A string of at most 65535 bytes behind its `LE16` length is read back, and the stream goes on after it
(30_encoding.md R126). -/
theorem takeCounted16_of_length_le {x : List Byte} (hx : x.length ≤ 65535) (bs : List Byte) :
    takeCounted16 (leBytes 2 x.length ++ x ++ bs) = .ok (x, bs) := by
  have hlen : x.length = leNat (leBytes 2 x.length) := (leNat_leBytes_of_lt (n := 2) (by omega)).symm
  rw [List.append_assoc]
  exact takeBytes_append hlen bs

/-- As many counted strings as stand in front are read back in their order (30_encoding.md R126). -/
theorem takeStrings_of_length_le {strings : List (List Byte)} (hx : ∀ x ∈ strings, x.length ≤ 65535) (bs : List Byte) :
    takeStrings strings.length (strings.flatMap (fun x => leBytes 2 x.length ++ x) ++ bs) = .ok (strings, bs) := by
  induction strings with
  | nil => rfl
  | cons x xs ih =>
    obtain ⟨hhead, htail⟩ := List.forall_mem_cons.1 hx
    rw [List.flatMap_cons, List.append_assoc, List.length_cons, takeStrings, takeCounted16_of_length_le hhead]
    simp only [ih htail]

/-- The word of `RADIO_START_TX` (44_radio.md R222, 30_encoding.md R126). -/
theorem decodeOp_radioStartTx {strings : List (List Byte)} (hn : strings.length ≤ 255)
    (hx : ∀ x ∈ strings, x.length ≤ 65535) (bs : List Byte) :
    decodeOp (0x12#8 :: BitVec.ofNat 8 strings.length ::
        (strings.flatMap (fun x => leBytes 2 x.length ++ x) ++ bs)) = .ok (.radioStartTx strings, bs) := by
  have hcount : (BitVec.ofNat 8 strings.length).toNat = strings.length := by rw [BitVec.toNat_ofNat]; omega
  have hread := takeStrings_of_length_le hx bs
  rw [← hcount] at hread
  exact congrArg (decodedAs .radioStartTx) hread

/-- `RADIO_START_TX` ends as its `require` clauses say. -/
theorem exec_radioStartTx (strings : List (List Byte)) (s : State) :
    exec (.radioStartTx strings) s = .next (settle s (radioStartTx strings s)) := rfl

/-- What a store reads as after a `MemWrite` at its start: the written bytes, then the bytes that stood there. -/
theorem State.byteAt_memWrite_zero (s : State) (st : Store) (bs : List Byte) (a : Nat) :
    (s.memWrite st 0 bs).byteAt st a = bs.getD a (s.byteAt st a) := by
  rw [State.byteAt_memWrite]
  by_cases ha : a < bs.length <;> simp [ha]

/-- The record of an outcome is not in any store. -/
@[simp] theorem State.byteAt_ok (s : State) (v : Value) (st : Store) (a : Nat) :
    (s.ok v).byteAt st a = s.byteAt st a := s.byteAt_setResult (.ok v) st a

/-- Arming the radio writes no store. -/
@[simp] theorem State.byteAt_armRadio (d : Direction) (s : State) (st : Store) (a : Nat) :
    (armRadio d s).byteAt st a = s.byteAt st a := by cases st <;> rfl

/-- The length byte counts modulo 256, one more than the bytes that follow it (30_encoding.md R102). -/
theorem lengthByte_eq_mod (total : Nat) : lengthByte total = BitVec.ofNat 8 ((total + 1) % 256) :=
  BitVec.eq_of_toNat_eq (by simp [lengthByte])

/-- `radioStartTx_ok_iff` with its three clauses as one condition and the write to `BUF` as a `MemWrite`. -/
theorem radioStartTx_ok_iff_memWrite (strings : List (List Byte)) (s t : State) :
    radioStartTx strings s = .ok t ↔
      (s.radio.cfg = .txCfg ∧ s.radio.state = .disabled ∧ strings.flatten.length ≤ 257) ∧
        t = (armRadio .tx
          (s.memWrite .buf 0 (lengthByte strings.flatten.length :: strings.flatten))).ok .unit := by
  rw [radioStartTx_ok_iff, and_assoc, and_assoc]
  rfl

/-- Settles O38: the word by `decodeOp_radioStartTx`; effect and refusal by `radioStartTx_ok_iff_memWrite`; the bytes of
`BUF` by `State.byteAt_memWrite_zero`, the first being the length byte and the others the concatenated strings. -/
theorem radioStartTxFillsTheBuffer : Obligations.RadioStartTxFillsTheBuffer := by
  intro strings bs s
  simp only [exec_radioStartTx, Host.Outcome.next.injEq]
  obtain ⟨haccepted, hrefused⟩ := settle_of_ok_iff (s := s) (radioStartTx_ok_iff_memWrite strings s)
  refine ⟨fun hn hx => decodeOp_radioStartTx hn hx bs, fun h => ⟨_, haccepted h, rfl, ?_, fun a => ?_⟩, hrefused⟩
  · rw [State.byteAt_ok, State.byteAt_armRadio, State.byteAt_memWrite_zero, List.getD_cons_zero, lengthByte_eq_mod]
  · rw [State.byteAt_ok, State.byteAt_armRadio, State.byteAt_memWrite_zero, List.getD_cons_succ]

/-! ### R223: the start of a reception -/

/-- The word of `RADIO_START_RX` has no operands (44_radio.md R223). -/
theorem decodeOp_radioStartRx (bs : List Byte) : decodeOp (0x13#8 :: bs) = .ok (.radioStartRx, bs) := rfl

/-- `RADIO_START_RX` ends as its `require` clauses say. -/
theorem exec_radioStartRx (s : State) : exec .radioStartRx s = .next (settle s (radioStartRx s)) := rfl

/-- Settles O39: effect and refusal by `radioStartRx_ok_iff`. -/
theorem radioStartRxArmsReception : Obligations.RadioStartRxArmsReception := by
  intro bs s
  simp only [exec_radioStartRx, Host.Outcome.next.injEq]
  refine ⟨decodeOp_radioStartRx bs, settle_of_ok_iff fun t => ?_⟩
  simp only [radioStartRx_ok_iff, and_assoc]

/-! ### R250 and R253: the flags cleared, the radio disabled -/

/-- The word of `RADIO_EVENT_RESET_ALL` has no operands (44_radio.md R250). -/
theorem decodeOp_radioEventResetAll (bs : List Byte) : decodeOp (0x16#8 :: bs) = .ok (.radioEventResetAll, bs) := rfl

/-- The word of `RADIO_DISABLE` has no operands (44_radio.md R253). -/
theorem decodeOp_radioDisable (bs : List Byte) : decodeOp (0x17#8 :: bs) = .ok (.radioDisable, bs) := rfl

/-- `RADIO_EVENT_RESET_ALL` has no `require` clause: it writes the cleared flags and answers (44_radio.md R250). -/
theorem exec_radioEventResetAll (s : State) :
    exec .radioEventResetAll s = .next ((s.setEvents Events.clear).ok .unit) := rfl

/-- `RADIO_DISABLE` has no `require` clause: it clears the enable bit, performs the disable task and answers
(44_radio.md R253). -/
theorem exec_radioDisable (s : State) :
    exec .radioDisable s = .next ((disableTask (s.setRadio { s.radio with inten := false })).ok .unit) := rfl

/-- Settles O41: the first writes the flags by `State.setEvents_eq`, the second performs the disable task,
`disableTask_eq`, on the radio whose enable bit is cleared. -/
theorem radioResetAllAndDisable : Obligations.RadioResetAllAndDisable := by
  intro bs s
  refine ⟨decodeOp_radioEventResetAll bs, decodeOp_radioDisable bs, ?_, ?_⟩
  · rw [exec_radioEventResetAll, State.ok_eq, State.setEvents_eq]
    rfl
  · rw [exec_radioDisable, State.ok_eq, disableTask_eq]
    rfl

end Sys2Proof.Machine
end

section
/-! ## Proofs: the host's sequences (46_host_sequences.md)

When `HFCLK_STOP` is accepted and what it then answers is `hfclkStop_ok_iff`; what stands here are the words of the two
clock operations and the reason the stop is refused with. -/

namespace Sys2Proof.Machine

/-! ### R320 and R321: the high-frequency clock started and stopped -/

/-- The word of `HFCLK_START` has no operands (46_host_sequences.md R320). -/
theorem decodeOp_hfclkStart (bs : List Byte) : decodeOp (0x30#8 :: bs) = .ok (.hfclkStart, bs) := rfl

/-- The word of `HFCLK_STOP` has no operands (46_host_sequences.md R321). -/
theorem decodeOp_hfclkStop (bs : List Byte) : decodeOp (0x31#8 :: bs) = .ok (.hfclkStop, bs) := rfl

/-- `HFCLK_START` has no `require` clause: it sets the clock bit and answers (46_host_sequences.md R320). -/
theorem exec_hfclkStart (s : State) : exec .hfclkStart s = .next ((s.setHfclk true).ok .unit) := rfl

/-- `HFCLK_STOP` ends as its `require` clause says. -/
theorem exec_hfclkStop (s : State) : exec .hfclkStop s = .next (settle s (hfclkStop s)) := rfl

/-- The only reason `HFCLK_STOP` is refused: the radio is not Disabled (46_host_sequences.md R321). -/
theorem hfclkStop_of_not_disabled {s : State} (h : s.radio.state ≠ .disabled) :
    hfclkStop s = .error .radioNotDisabled := if_neg h

/-- Settles O42: the start writes the clock bit and its answer, `State.ok_eq`; the stop is accepted by
`hfclkStop_ok_iff` and refused by `hfclkStop_of_not_disabled`. -/
theorem highFrequencyClockStartsAndStops : Obligations.HighFrequencyClockStartsAndStops := by
  intro bs s
  simp only [exec_hfclkStart, exec_hfclkStop, Host.Outcome.next.injEq]
  refine ⟨decodeOp_hfclkStart bs, decodeOp_hfclkStop bs, ?_, (settle_of_ok_iff (hfclkStop_ok_iff s)).1, fun hbusy => ?_⟩
  · rw [State.ok_eq]
    rfl
  · exact settle_of_error (hfclkStop_of_not_disabled hbusy)

end Sys2Proof.Machine
end

section
/-! ## Proofs: operation words and records (30_encoding.md)

Each operand reader is inverse to the writer of its operand: what it reads is the operand's bytes and the rest, and the
operand's bytes in front of any rest are read back. The two directions, reader by reader, are the two round trips of the
operation words. -/

namespace Sys2Proof.Machine

/-! ### Little-endian numbers read from a stream -/

/-- `n` bytes hold a number below `256^n`. -/
theorem leNat_lt (bs : List Byte) : leNat bs < 256 ^ bs.length := by
  induction bs with
  | nil => simp [leNat]
  | cons b bs ih =>
    have hb := b.isLt
    rw [List.length_cons, Nat.pow_succ, leNat]
    omega

/-- `LE` undoes `le` on as many bytes (00_scope.md R16). -/
theorem leBytes_leNat {n : Nat} {bs : List Byte} (h : bs.length = n) : leBytes n (leNat bs) = bs := by
  induction bs generalizing n with
  | nil => subst h; rfl
  | cons b bs ih =>
    have hb := b.isLt
    subst h
    have hlow : BitVec.ofNat 8 (b.toNat + 256 * leNat bs) = b :=
      BitVec.eq_of_toNat_eq (by rw [BitVec.toNat_ofNat]; omega)
    have hhigh : (b.toNat + 256 * leNat bs) / 256 = leNat bs := by omega
    rw [List.length_cons, leNat, leBytes, hlow, hhigh, ih rfl]

/-- A word of `8 * n` bits or fewer that holds the number of `n` bytes is written back as these bytes. -/
theorem leBytes_ofNat_leNat {n w : Nat} {bs : List Byte} (h : bs.length = n) (hw : leNat bs < 2 ^ w) :
    leBytes n (BitVec.ofNat w (leNat bs)).toNat = bs := by
  rw [BitVec.toNat_ofNat, Nat.mod_eq_of_lt hw, leBytes_leNat h]

/-- A word is read back from the bytes it is written as. -/
theorem ofNat_leNat_leBytes {n w : Nat} (x : BitVec w) (hw : 2 ^ w ≤ 256 ^ n) :
    BitVec.ofNat w (leNat (leBytes n x.toNat)) = x := by
  rw [leNat_leBytes_of_lt (lt_of_lt_of_le x.isLt hw), BitVec.ofNat_toNat, BitVec.setWidth_eq]

/-! ### What each reader took off the stream -/

/-- Bytes taken off the front are as many as asked, and with the rest they are the stream. -/
theorem takeBytes_eq_ok {n : Nat} {bs x rest : List Byte} (h : takeBytes n bs = .ok (x, rest)) :
    x.length = n ∧ bs = x ++ rest := by
  unfold takeBytes at h
  split at h
  · next hn => cases h; exact ⟨List.length_take_of_le hn, (List.take_append_drop n bs).symm⟩
  · cases h

theorem takeCounted_eq_ok {bs x rest : List Byte} (h : takeCounted bs = .ok (x, rest)) :
    x.length ≤ 255 ∧ bs = counted x ++ rest := by
  cases bs with
  | nil => cases h
  | cons n bs =>
    obtain ⟨hlen, rfl⟩ := takeBytes_eq_ok h
    have hn := n.isLt
    refine ⟨by omega, ?_⟩
    rw [counted, hlen, BitVec.ofNat_toNat, BitVec.setWidth_eq]
    rfl

theorem takeCounted16_eq_ok {bs x rest : List Byte} (h : takeCounted16 bs = .ok (x, rest)) :
    bs = counted16 x ++ rest := by
  match bs, h with
  | a :: b :: bs, h =>
    obtain ⟨hlen, rfl⟩ := takeBytes_eq_ok h
    rw [counted16, hlen, leBytes_leNat (n := 2) rfl]
    rfl

theorem takeStrings_eq_ok {n : Nat} {bs : List Byte} {xs : List (List Byte)} {rest : List Byte}
    (h : takeStrings n bs = .ok (xs, rest)) : xs.length = n ∧ bs = xs.flatMap counted16 ++ rest := by
  induction n generalizing bs xs with
  | zero => cases h; exact ⟨rfl, rfl⟩
  | succ n ih =>
    unfold takeStrings at h
    split at h
    · cases h
    · next x rest' hx =>
      split at h
      · cases h
      · next ys rest'' hys =>
        cases h
        obtain ⟨hlen, hrest⟩ := ih hys
        refine ⟨congrArg (· + 1) hlen, ?_⟩
        rw [takeCounted16_eq_ok hx, hrest, List.flatMap_cons, List.append_assoc]

theorem take32_eq_ok {bs rest : List Byte} {x : BitVec 32} (h : take32 bs = .ok (x, rest)) :
    bs = leBytes 4 x.toNat ++ rest := by
  unfold take32 at h
  split at h
  · cases h
  · next y rest' hy =>
    cases h
    obtain ⟨hlen, rfl⟩ := takeBytes_eq_ok hy
    have hlt := leNat_lt y
    rw [hlen] at hlt
    rw [leBytes_ofNat_leNat hlen hlt]

theorem takeI2c_eq_ok {bs rest : List Byte} {x : Byte × List Byte × Byte} (h : takeI2c bs = .ok (x, rest)) :
    bs = x.1 :: (counted x.2.1 ++ [x.2.2]) ++ rest := by
  cases bs with
  | nil => cases h
  | cons addr bs =>
    unfold takeI2c at h
    dsimp only at h
    split at h
    · cases h
    · cases h
    · next wdata rlen rest' hw =>
      cases h
      rw [(takeCounted_eq_ok hw).2]
      simp

/-- The record operand of 20 fixed bytes and fields is written back as they stand, when bit 15 of its type is clear. -/
theorem recordBytes_recordOf {hd : List Byte} (fields : List Byte) (hlen : hd.length = 20)
    (htype : leNat (hd.take 2) < 32768) : recordBytes (recordOf hd fields) = hd ++ counted fields := by
  have part (n i : Nat) (hi : i + n ≤ 20) : ((hd.drop i).take n).length = n := by
    rw [List.length_take, List.length_drop]; omega
  have fits (n i : Nat) (hi : i + n ≤ 20) : leNat ((hd.drop i).take n) < 256 ^ n := by
    have := leNat_lt ((hd.drop i).take n)
    rwa [part n i hi] at this
  simp only [recordBytes, recordOf]
  rw [leBytes_ofNat_leNat (List.length_take_of_le (by omega)) htype,
    leBytes_ofNat_leNat (part 8 2 (by omega)) (fits 8 2 (by omega)),
    leBytes_ofNat_leNat (part 4 10 (by omega)) (fits 4 10 (by omega)),
    leBytes_ofNat_leNat (part 4 14 (by omega)) (fits 4 14 (by omega)),
    leBytes_ofNat_leNat (part 2 18 (by omega)) (fits 2 18 (by omega))]
  have hcut : hd.take 2 ++ (hd.drop 2).take 8 ++ (hd.drop 10).take 4 ++ (hd.drop 14).take 4 ++ (hd.drop 18).take 2
      = hd := by
    rw [← List.take_add, ← List.take_add, ← List.take_add, ← List.take_add, List.take_of_length_le (by omega)]
  rw [hcut]

theorem takeRecord_eq_ok {bs rest : List Byte} {r : Record} (h : takeRecord bs = .ok (r, rest)) :
    bs = recordBytes r ++ rest := by
  unfold takeRecord at h
  split at h
  · cases h
  · next hd rest' hhd =>
    split at h
    · next htype =>
      split at h
      · cases h
      · next fields rest'' hf =>
        cases h
        obtain ⟨hlen, rfl⟩ := takeBytes_eq_ok hhd
        obtain ⟨-, rfl⟩ := takeCounted_eq_ok hf
        rw [recordBytes_recordOf fields hlen htype, List.append_assoc]
    · cases h

/-- The payload operand as bytes (30_encoding.md R126). -/
def payloadOperand : Payload → List Byte
  | .view => [0x00#8]
  | .inline bytes => 0x01#8 :: counted16 bytes

theorem takePayload_eq_ok {bs rest : List Byte} {v : Payload} (h : takePayload bs = .ok (v, rest)) :
    bs = payloadOperand v ++ rest := by
  cases bs with
  | nil => cases h
  | cons sel bs =>
    unfold takePayload at h
    dsimp only at h
    split at h
    · next hsel => cases h; rw [hsel]; rfl
    · split at h
      · next hsel =>
        split at h
        · cases h
        · next x rest' hx => cases h; rw [hsel, takeCounted16_eq_ok hx]; rfl
      · cases h

/-! ### What decodes encodes back -/

/-- The operation word of `i` is `op` and then what was read of `bs` before `rest`. -/
def EncodesBack (op : Byte) (bs : List Byte) (i : Instr) (rest : List Byte) : Prop :=
  ∃ operands, encode i = some (.op (op :: operands)) ∧ bs = operands ++ rest

/-- An operation without operands. -/
theorem EncodesBack.of_bare {op : Byte} {bs rest : List Byte} {i j : Instr} (hword : encode i = some (.op [op]))
    (h : (Except.ok (i, bs) : Decoded) = .ok (j, rest)) : EncodesBack op bs j rest := by
  cases h
  exact ⟨[], hword, rfl⟩

/-- An operation whose operand a reader reads, where reader and writer agree. -/
theorem EncodesBack.of_operand {α : Type} {op : Byte} {bs rest : List Byte} {i : Instr} {f : α → Instr}
    {write : α → List Byte} {r : Except DecodeError (α × List Byte)}
    (hword : ∀ x, encode (f x) = some (.op (op :: write x))) (hread : ∀ {x rest}, r = .ok (x, rest) → bs = write x ++ rest)
    (h : decodedAs f r = .ok (i, rest)) : EncodesBack op bs i rest := by
  match r, h with
  | .ok (x, rest'), h =>
    cases h
    exact ⟨write x, hword x, hread rfl⟩

theorem encodesBack_radioStartTx {bs rest : List Byte} {i : Instr}
    (h : decodeOperands 0x12#8 bs = .ok (i, rest)) : EncodesBack 0x12#8 bs i rest := by
  cases bs with
  | nil => cases h
  | cons n bs =>
    change decodedAs .radioStartTx (takeStrings n.toNat bs) = _ at h
    match hx : takeStrings n.toNat bs, h with
    | .ok (strings, rest'), h =>
      cases h
      obtain ⟨hlen, rfl⟩ := takeStrings_eq_ok hx
      refine ⟨n :: strings.flatMap counted16, ?_, rfl⟩
      rw [encode, hlen, BitVec.ofNat_toNat, BitVec.setWidth_eq]

theorem encodesBack_radioEventRead {bs rest : List Byte} {i : Instr}
    (h : decodeOperands 0x15#8 bs = .ok (i, rest)) : EncodesBack 0x15#8 bs i rest := by
  cases bs with
  | nil => cases h
  | cons k bs => cases h; exact ⟨[k], rfl, rfl⟩

theorem encode_codecDecode (v : Payload) : encode (.codecDecode v) = some (.op (0x22#8 :: payloadOperand v)) := by
  cases v <;> rfl

/-- The operation bytes of 30_encoding.md R125. -/
def operationBytes : List Nat :=
  [0x01, 0x02, 0x03, 0x04, 0x05, 0x06, 0x07, 0x08, 0x09, 0x0A, 0x0B, 0x10, 0x11, 0x12, 0x13, 0x14, 0x15,
    0x16, 0x17, 0x18, 0x20, 0x21, 0x22, 0x30, 0x31]

/-- A byte outside the operation map is refused by its name (30_encoding.md R125). -/
theorem decodeOperands_of_not_mem {op : Byte} (h : op.toNat ∉ operationBytes) (bs : List Byte) :
    decodeOperands op bs = .error (.unknownOperation op) := by
  simp only [operationBytes, List.mem_cons, List.not_mem_nil, or_false, not_or] at h
  unfold decodeOperands
  split <;> try omega
  rfl

/-- The bytes of the operation map, one by one. -/
theorem mem_operationBytes {op : Byte} (h : op.toNat ∈ operationBytes) :
    op ∈ [0x01#8, 0x02#8, 0x03#8, 0x04#8, 0x05#8, 0x06#8, 0x07#8, 0x08#8, 0x09#8, 0x0A#8, 0x0B#8, 0x10#8, 0x11#8,
      0x12#8, 0x13#8, 0x14#8, 0x15#8, 0x16#8, 0x17#8, 0x18#8, 0x20#8, 0x21#8, 0x22#8, 0x30#8, 0x31#8] := by
  have hmem : op ∈ operationBytes.map (BitVec.ofNat 8) :=
    List.mem_map.2 ⟨_, h, by rw [BitVec.ofNat_toNat, BitVec.setWidth_eq]⟩
  exact hmem

/-- The operation map decodes only to instructions whose word is the operation byte and the operands read. -/
theorem decodeOperands_encodesBack {op : Byte} {bs rest : List Byte} {i : Instr}
    (h : decodeOperands op bs = .ok (i, rest)) : EncodesBack op bs i rest := by
  by_cases hop : op.toNat ∈ operationBytes
  · have hbytes := mem_operationBytes hop
    simp only [List.mem_cons, List.not_mem_nil, or_false] at hbytes
    rcases hbytes with rfl | rfl | rfl | rfl | rfl | rfl | rfl | rfl | rfl | rfl | rfl | rfl | rfl | rfl | rfl | rfl |
      rfl | rfl | rfl | rfl | rfl | rfl | rfl | rfl | rfl
    · exact .of_operand (fun _ => rfl) take32_eq_ok h
    · exact .of_bare rfl h
    · exact .of_operand (fun _ => rfl) take32_eq_ok h
    · exact .of_bare rfl h
    · exact .of_bare rfl h
    · exact .of_bare rfl h
    · exact .of_bare rfl h
    · exact .of_bare rfl h
    · exact .of_bare rfl h
    · exact .of_operand (fun _ => rfl) takeI2c_eq_ok h
    · exact .of_bare rfl h
    · exact .of_bare rfl h
    · exact .of_bare rfl h
    · exact encodesBack_radioStartTx h
    · exact .of_bare rfl h
    · exact .of_bare rfl h
    · exact encodesBack_radioEventRead h
    · exact .of_bare rfl h
    · exact .of_bare rfl h
    · exact .of_bare rfl h
    · exact .of_operand (fun _ => rfl) takeRecord_eq_ok h
    · exact .of_operand (fun _ => rfl) takeRecord_eq_ok h
    · exact .of_operand encode_codecDecode takePayload_eq_ok h
    · exact .of_bare rfl h
    · exact .of_bare rfl h
  · rw [decodeOperands_of_not_mem hop] at h
    cases h

/-- The tag of a payload is the flag and the type the decoder takes from it (30_encoding.md R103, R112(a)). -/
theorem encTag_ofNat {tag : Nat} (hlow : 32768 ≤ tag) (hhigh : tag < 65536) : encTag (BitVec.ofNat 15 tag) = tag := by
  have htag : tag = 2 ^ 15 * 1 + tag % 2 ^ 15 := by omega
  rw [encTag, BitVec.toNat_ofNat, Nat.or_comm]
  conv_rhs => rw [htag, Nat.two_pow_add_eq_or_of_lt (Nat.mod_lt _ (by decide))]

/-- A payload decodes only to the packet of its layout, and that packet's payload is the one read. -/
theorem decodePacket_encodesBack {payload rest : List Byte} {i : Instr} (h : decodePacket payload = .ok (i, rest)) :
    encode i = some (.packet payload) ∧ rest = [] := by
  match payload, h with
  | a :: b :: content, h =>
    have hlt : leNat [a, b] < 65536 := by simpa using leNat_lt [a, b]
    have hpair : leBytes 2 (leNat [a, b]) = [a, b] := leBytes_leNat rfl
    unfold decodePacket at h
    dsimp only at h
    split at h
    · next hplain =>
      cases h
      rw [encode, plainTag, BitVec.toNat_ofNat, Nat.mod_eq_of_lt hplain, hpair]
      exact ⟨rfl, rfl⟩
    · next henc =>
      cases h
      rw [encode, encTag_ofNat (by omega) hlt, hpair]
      exact ⟨rfl, rfl⟩

/-- Settles O2: each reader took off exactly its operand's bytes, `decodeOperands_encodesBack`; a payload's tag is
written back by `decodePacket_encodesBack`. -/
theorem decodedBytesEncodeBack : Obligations.DecodedBytesEncodeBack := by
  refine ⟨fun bytes i rest h => ?_, fun payload i rest => decodePacket_encodesBack⟩
  cases bytes with
  | nil => cases h
  | cons op bs =>
    obtain ⟨operands, hword, rfl⟩ := decodeOperands_encodesBack h
    exact ⟨op :: operands, hword, rfl⟩

/-! ### What encodes decodes to itself -/

/-- The string behind its `LE16` length is read back (30_encoding.md R126). -/
theorem takeCounted16_counted16 {x : List Byte} (hx : x.length < 65536) (bs : List Byte) :
    takeCounted16 (counted16 x ++ bs) = .ok (x, bs) :=
  takeCounted16_of_length_le (by omega) bs

/-- The first `n` bytes of an `n`-byte number are all of it. -/
theorem take_leBytes (n v : Nat) : (leBytes n v).take n = leBytes n v :=
  List.take_of_length_le (leBytes_length n v).le

/-- Past its last byte an `n`-byte number has none. -/
theorem drop_leBytes {n k : Nat} (h : n ≤ k) (v : Nat) : (leBytes n v).drop k = [] :=
  List.drop_eq_nil_of_le (by rwa [leBytes_length])

/-- The record whose fixed bytes are those of `r` is `r` with the fields given (30_encoding.md R126). -/
theorem recordOf_leBytes (r : Record) (fields : List Byte) :
    recordOf (leBytes 2 r.type.toNat ++ leBytes 8 r.deviceId.toNat ++ leBytes 4 r.partId.toNat ++ leBytes 4 r.seq.toNat
      ++ leBytes 2 r.sensorId.toNat) fields = { r with fields := fields } := by
  simp [recordOf, List.drop_append, take_leBytes, drop_leBytes, ofNat_leNat_leBytes]

/-- A record operand is read back (30_encoding.md R126). -/
theorem takeRecord_recordBytes {r : Record} (hr : r.fields.length ≤ 255) (bs : List Byte) :
    takeRecord (recordBytes r ++ bs) = .ok (r, bs) := by
  have htype : leNat (leBytes 2 r.type.toNat) < 32768 := by
    have hlt := r.type.isLt
    rw [leNat_leBytes_of_lt (by omega)]
    exact hlt
  unfold takeRecord
  rw [recordBytes, List.append_assoc, takeBytes_append (by simp)]
  have hfirst : (leBytes 2 r.type.toNat ++ leBytes 8 r.deviceId.toNat ++ leBytes 4 r.partId.toNat
      ++ leBytes 4 r.seq.toNat ++ leBytes 2 r.sensorId.toNat).take 2 = leBytes 2 r.type.toNat := by
    simp
  have hfields : takeCounted (counted r.fields ++ bs) = .ok (r.fields, bs) := takeCounted_of_length_le hr bs
  simp only [hfirst, if_pos htype, hfields, recordOf_leBytes]

/-- A payload operand is read back (30_encoding.md R126). -/
theorem takePayload_payloadOperand {v : Payload} (hv : (Instr.codecDecode v).wf = true) (bs : List Byte) :
    takePayload (payloadOperand v ++ bs) = .ok (v, bs) := by
  cases v with
  | view => rfl
  | inline bytes =>
    have hread := takeCounted16_counted16 (of_decide_eq_true hv) bs
    simp [payloadOperand, takePayload, hread]

/-- The operation word of `i`, if it has one, decodes to `i` whatever follows it. -/
def ReadsBack (i : Instr) : Prop :=
  ∀ bytes rest, encode i = some (.op bytes) → decodeOp (bytes ++ rest) = .ok (i, rest)

/-- For `ReadsBack` it is enough to look at the one word `i` encodes to. -/
theorem ReadsBack.of_word {i : Instr} {word : List Byte} (hword : encode i = some (.op word))
    (h : ∀ rest, decodeOp (word ++ rest) = .ok (i, rest)) : ReadsBack i := by
  intro bytes rest hb
  cases hword.symm.trans hb
  exact h rest

/-- An instruction without an operation word. -/
theorem ReadsBack.of_no_word {i : Instr} (hword : ∀ word, encode i ≠ some (.op word)) : ReadsBack i :=
  fun bytes _ hb => absurd hb (hword bytes)

/-- An instruction whose word is its operation byte and one operand, where reader and writer agree. -/
theorem ReadsBack.of_operand {α : Type} {i : Instr} {op : Byte} {operands : List Byte} {f : α → Instr} {x : α}
    {read : List Byte → Except DecodeError (α × List Byte)} (hword : encode i = some (.op (op :: operands)))
    (hi : f x = i) (hop : ∀ bs, decodeOp (op :: bs) = decodedAs f (read bs))
    (hread : ∀ rest, read (operands ++ rest) = .ok (x, rest)) : ReadsBack i :=
  .of_word hword fun rest => by rw [List.cons_append, hop, hread, decodedAs, hi]

theorem readsBack_i2cStart {addr : Byte} {wdata : List Byte} {rlen : Byte}
    (h : (Instr.i2cStart addr wdata rlen).wf = true) : ReadsBack (.i2cStart addr wdata rlen) := by
  have hlen : wdata.length ≤ 255 := of_decide_eq_true (Bool.and_eq_true_iff.1 h).2
  refine .of_word rfl fun rest => ?_
  rw [← decodeOp_i2cStart addr rlen hlen rest]
  simp [counted]

theorem readsBack_radioStartTx {strings : List (List Byte)} (h : (Instr.radioStartTx strings).wf = true) :
    ReadsBack (.radioStartTx strings) := by
  obtain ⟨hn, hx⟩ := Bool.and_eq_true_iff.1 h
  have hlen : ∀ x ∈ strings, x.length ≤ 65535 := fun x hxs => by
    have := of_decide_eq_true (List.all_eq_true.1 hx x hxs)
    omega
  exact .of_word rfl (decodeOp_radioStartTx (of_decide_eq_true hn) hlen)

/-- Every operation word of a well-formed instruction decodes to it. -/
theorem readsBack_of_wf {i : Instr} (h : i.wf = true) : ReadsBack i := by
  cases i with
  | timerStart ticks => exact .of_operand rfl rfl (fun _ => rfl) (take32_leBytes ticks)
  | rtcStart compare => exact .of_operand rfl rfl (fun _ => rfl) (take32_leBytes compare)
  | i2cStart addr wdata rlen => exact readsBack_i2cStart h
  | radioStartTx strings => exact readsBack_radioStartTx h
  | codecEncodeEnc r =>
    exact .of_operand rfl rfl (fun _ => rfl) (takeRecord_recordBytes (of_decide_eq_true h))
  | codecEncodePlain r =>
    exact .of_operand rfl rfl (fun _ => rfl) (takeRecord_recordBytes (of_decide_eq_true h))
  | codecDecode v => exact .of_operand (encode_codecDecode v) rfl (fun _ => rfl) (takePayload_payloadOperand h)
  | timerWait | rtcWait | rngStart | rngWait | rngPoll | i2cEnable | i2cDisable | i2cWait | radioInitTx | radioInitRx
  | radioStartRx | radioPayload | radioEventRead k | radioEventResetAll | radioDisable | radioTakeRx | hfclkStart
  | hfclkStop => exact .of_word rfl fun _ => rfl
  | timerTick | rtcTick | rngProduce v | i2cComplete a | radioRamp | radioTxEnd | radioRxOffer f rssi | radioRxStore
  | radioRxEnd tail | radioShortStart | radioShortDisable | irqTimer | irqRtc | irqRng | irqI2c | irqRadioTx
  | irqRadioRx | envAirDeliver n body crc rssi | envAirDrop n | waitTxDone | blocking c | drawNonce | sendEncrypted r
  | waitRx | pktPlain ty content | pktEnc ty content | cfgword board major minor patch => exact .of_no_word nofun

/-- A packet's payload decodes to the packet (30_encoding.md R103). -/
theorem decodePacket_encode {i : Instr} {payload : List Byte} (h : encode i = some (.packet payload)) :
    decodePacket payload = .ok (i, []) := by
  unfold encode at h
  split at h <;> cases h
  · exact decodePacket_plainTag _ _
  · exact decodePacket_encTag _ _

/-- The four fields of a configuration word are read back, most significant first (30_encoding.md R118). -/
theorem decodeConfig_append (board major minor patch : Byte) :
    decodeConfig (board ++ major ++ minor ++ patch) = .cfgword board major minor patch := by
  have hboard : (board ++ major ++ minor ++ patch).extractLsb' 24 8 = board :=
    (BitVec.extractLsb'_append_eq_of_le (by decide)).trans <|
      (BitVec.extractLsb'_append_eq_of_le (by decide)).trans BitVec.extractLsb'_append_eq_left
  have hmajor : (board ++ major ++ minor ++ patch).extractLsb' 16 8 = major :=
    (BitVec.extractLsb'_append_eq_of_le (by decide)).trans <|
      (BitVec.extractLsb'_append_eq_of_le (by decide)).trans BitVec.extractLsb'_append_eq_right
  have hminor : (board ++ major ++ minor ++ patch).extractLsb' 8 8 = minor :=
    (BitVec.extractLsb'_append_eq_of_le (by decide)).trans BitVec.extractLsb'_append_eq_right
  have hpatch : (board ++ major ++ minor ++ patch).extractLsb' 0 8 = patch := BitVec.extractLsb'_append_eq_right
  calc
    _ = Instr.cfgword ((board ++ major ++ minor ++ patch).extractLsb' 24 8)
          ((board ++ major ++ minor ++ patch).extractLsb' 16 8) ((board ++ major ++ minor ++ patch).extractLsb' 8 8)
          ((board ++ major ++ minor ++ patch).extractLsb' 0 8) := rfl
    _ = _ := by rw [hboard, hmajor, hminor, hpatch]

/-- A configuration word decodes to the boot read of its fields. -/
theorem decodeConfig_encode {i : Instr} {w : BitVec 32} (h : encode i = some (.config w)) : decodeConfig w = i := by
  unfold encode at h
  split at h <;> cases h
  exact decodeConfig_append _ _ _ _

/-- Settles O1: format by format, the words by `readsBack_of_wf`. -/
theorem encodedInstructionsDecodeToThemselves : Obligations.EncodedInstructionsDecodeToThemselves :=
  fun _ h => ⟨readsBack_of_wf h, fun _ => decodePacket_encode, fun _ => decodeConfig_encode⟩

/-! ### R118: the configuration word -/

/-- Settles O6: the fields by `decodeConfig_append`; the boot read answers them, `State.ok_eq`. -/
theorem configurationWordReadsItsFields : Obligations.ConfigurationWordReadsItsFields :=
  fun board major minor patch _ => ⟨decodeConfig_append board major minor patch, rfl⟩

/-! ### R125: the operation map -/

/-- A reason that blames an operand: not the operation byte, and not a tag, which operation words have not. -/
def DecodeError.OfOperands : DecodeError → Prop
  | .unknownOperation _ => False
  | .noTag => False
  | _ => True

/-- A reader that blames nothing but operands. -/
def BlamesOperands {α : Type} : Except DecodeError α → Prop
  | .ok _ => True
  | .error e => DecodeError.OfOperands e

/-- An error passed on under another type of answer still blames an operand. -/
theorem BlamesOperands.of_error {α β : Type} {x : Except DecodeError α} {e : DecodeError} (h : BlamesOperands x)
    (he : x = .error e) : BlamesOperands (.error e : Except DecodeError β) := by
  rw [he] at h
  exact h

theorem blamesOperands_takeBytes (n : Nat) (bs : List Byte) : BlamesOperands (takeBytes n bs) := by
  unfold takeBytes
  split
  · trivial
  · trivial

theorem blamesOperands_takeCounted (bs : List Byte) : BlamesOperands (takeCounted bs) := by
  cases bs with
  | nil => trivial
  | cons n bs => exact blamesOperands_takeBytes _ _

theorem blamesOperands_takeCounted16 (bs : List Byte) : BlamesOperands (takeCounted16 bs) := by
  match bs with
  | [] => trivial
  | [_] => trivial
  | _ :: _ :: _ => exact blamesOperands_takeBytes _ _

theorem blamesOperands_takeStrings (n : Nat) (bs : List Byte) : BlamesOperands (takeStrings n bs) := by
  induction n generalizing bs with
  | zero => trivial
  | succ n ih =>
    unfold takeStrings
    split
    · next e he => exact (blamesOperands_takeCounted16 bs).of_error he
    · next x rest hx =>
      split
      · next e he => exact (ih rest).of_error he
      · trivial

theorem blamesOperands_take32 (bs : List Byte) : BlamesOperands (take32 bs) := by
  unfold take32
  split
  · next e he => exact (blamesOperands_takeBytes 4 bs).of_error he
  · trivial

theorem blamesOperands_takeI2c (bs : List Byte) : BlamesOperands (takeI2c bs) := by
  cases bs with
  | nil => trivial
  | cons addr bs =>
    unfold takeI2c
    dsimp only
    split
    · next e he => exact (blamesOperands_takeCounted bs).of_error he
    · trivial
    · trivial

theorem blamesOperands_takeRecord (bs : List Byte) : BlamesOperands (takeRecord bs) := by
  unfold takeRecord
  split
  · next e he => exact (blamesOperands_takeBytes 20 bs).of_error he
  · next hd rest _ =>
    split
    · split
      · next e he => exact (blamesOperands_takeCounted rest).of_error he
      · trivial
    · trivial

theorem blamesOperands_takePayload (bs : List Byte) : BlamesOperands (takePayload bs) := by
  cases bs with
  | nil => trivial
  | cons sel bs =>
    unfold takePayload
    dsimp only
    split
    · trivial
    · split
      · split
        · next e he => exact (blamesOperands_takeCounted16 bs).of_error he
        · trivial
      · trivial

theorem BlamesOperands.decodedAs {α : Type} {x : Except DecodeError (α × List Byte)} (h : BlamesOperands x)
    (f : α → Instr) : BlamesOperands (decodedAs f x) := by
  match x, h with
  | .ok _, _ => trivial
  | .error _, h => exact h

/-- Of an operation of the map only the operands can be wrong. -/
theorem blamesOperands_decodeOperands {op : Byte} (hop : op.toNat ∈ operationBytes) (bs : List Byte) :
    BlamesOperands (decodeOperands op bs) := by
  have hbytes := mem_operationBytes hop
  simp only [List.mem_cons, List.not_mem_nil, or_false] at hbytes
  rcases hbytes with rfl | rfl | rfl | rfl | rfl | rfl | rfl | rfl | rfl | rfl | rfl | rfl | rfl | rfl | rfl | rfl |
    rfl | rfl | rfl | rfl | rfl | rfl | rfl | rfl | rfl
  · exact (blamesOperands_take32 bs).decodedAs _
  · trivial
  · exact (blamesOperands_take32 bs).decodedAs _
  · trivial
  · trivial
  · trivial
  · trivial
  · trivial
  · trivial
  · exact (blamesOperands_takeI2c bs).decodedAs _
  · trivial
  · trivial
  · trivial
  · cases bs with
    | nil => trivial
    | cons n bs => exact (blamesOperands_takeStrings _ bs).decodedAs _
  · trivial
  · trivial
  · cases bs with
    | nil => trivial
    | cons k bs => trivial
  · trivial
  · trivial
  · trivial
  · exact (blamesOperands_takeRecord bs).decodedAs _
  · exact (blamesOperands_takeRecord bs).decodedAs _
  · exact (blamesOperands_takePayload bs).decodedAs _
  · trivial
  · trivial

/-- Settles O4: outside the map by `decodeOperands_of_not_mem`; inside it by `blamesOperands_decodeOperands`. -/
theorem otherOperationBytesAreNoOperation : Obligations.OtherOperationBytesAreNoOperation := by
  refine fun op bs => ⟨fun h hop => ?_, fun h => decodeOperands_of_not_mem h bs⟩
  have hblames := blamesOperands_decodeOperands hop bs
  change decodeOperands op bs = _ at h
  rw [h] at hblames
  exact hblames

/-- An operation word is never rejected for want of a tag, which only payloads have. -/
theorem decodeOp_ne_noTag (bytes : List Byte) : decodeOp bytes ≠ .error .noTag := by
  cases bytes with
  | nil => exact nofun
  | cons op bs =>
    change decodeOperands op bs ≠ _
    by_cases hop : op.toNat ∈ operationBytes
    · intro h
      have hblames := blamesOperands_decodeOperands hop bs
      rw [h] at hblames
      exact hblames
    · rw [decodeOperands_of_not_mem hop]
      exact nofun

/-! ### Words written out -/

/-- Settles O3: each conjunct is about given bytes, and is computed. -/
theorem writtenOutWordsDecode : Obligations.WrittenOutWordsDecode := by
  refine ⟨by decide, by decide, by decide, by decide, by decide, by decide, by decide, ?_, by decide⟩
  intro order init covered crc h
  simp only [List.mem_cons, Prod.mk.injEq, List.not_mem_nil, or_false] at h
  obtain ⟨rfl, rfl, rfl, rfl⟩ | ⟨rfl, rfl, rfl, rfl⟩ | ⟨rfl, rfl, rfl, rfl⟩ | ⟨rfl, rfl, rfl, rfl⟩ |
    ⟨rfl, rfl, rfl, rfl⟩ | ⟨rfl, rfl, rfl, rfl⟩ | ⟨rfl, rfl, rfl, rfl⟩ | ⟨rfl, rfl, rfl, rfl⟩ | ⟨rfl, rfl, rfl, rfl⟩ := h
  all_goals decide +kernel

end Sys2Proof.Machine
end

section
/-! ## Proofs: the invariant (10_state.md section 10)

`Inv` speaks of the state rule by rule; an operation writes it element by element. `InvParts` is the same statement said
of each element on its own, so that what an operation leaves alone keeps its part without an argument, and only what it
writes has to be looked at. `exec_keepsInv` says it of every instruction, and the host's tasks follow from it. -/

namespace Sys2Proof.Machine

/-! ### The invariant, element by element -/

/-- What `Inv` says of the timer. -/
structure TimerOk (width : Nat) (x : Timer) : Prop where
  handle : HandleInv x.hd
  running : x.running = true → x.hd.phase = .active ∧ x.hd.done = false
  counter : x.counter < 2 ^ width
  target : x.target < 2 ^ width

/-- What `Inv` says of the real-time counter. -/
structure RtcOk (width : Nat) (x : Rtc) : Prop where
  handle : HandleInv x.hd
  counter : x.counter < 2 ^ width
  compare : x.compare < 2 ^ width

/-- What `Inv` says of the I2C driver. -/
structure I2cOk (x : I2c) : Prop where
  handle : HandleInv x.hd
  txn : x.hd.phase = .active ↔ x.txn.isSome = true

/-- What `Inv` says of the radio. -/
structure RadioOk (p : Params) (x : Radio) : Prop where
  tx : x.state = .tx → x.cfg = .txCfg ∧ x.pktptr = .toBuf
  rx : x.state = .rx → x.cfg = .rxCfg ∧ x.pktptr = .toBuf
  ready : x.state = .ready → x.pktptr = .toBuf ∧ (x.dir = .tx → x.cfg = .txCfg) ∧ (x.dir = .rx → x.cfg = .rxCfg)
  fixed : x.cfg ≠ .noCfg → x.shorts = { readyStart := true, endDisable := true } ∧ x.conf = fixedConf p
  rxBody : ∀ f i, x.rxProg = some (f, i) → bodyWf f.body = true ∧ i ≤ f.body.length
  txBody : ∀ f, x.txProg = some f → bodyWf f.body = true

/-- The encodes under way among these tasks passed their length check. -/
def TasksOk (ts : List Task) : Prop := ∀ r, Task.encodeFinish r ∈ ts → (ser r).length ≤ 240

/-- A view inside `BUF`. -/
def ViewOk (v : Option (Nat × Nat)) : Prop := ∀ offset length, v = some (offset, length) → offset + length ≤ 258

/-- `Inv`, one part for each element it speaks of. -/
structure InvParts (s : State) : Prop where
  buf : Memory.wf 258 s.buf = true
  sin : Memory.wf 257 s.sin = true
  sout : Memory.wf 257 s.sout = true
  timer : TimerOk s.par.timerWidth s.timer
  rtc : RtcOk s.par.rtcWidth s.rtc
  i2c : I2cOk s.i2c
  rng : HandleInv s.rng.hd
  radio : RadioOk s.par s.radio
  air : ∀ f ∈ s.air, bodyWf f.body = true
  tasks : TasksOk s.host.todo
  view : ViewOk s.host.view

theorem Inv.parts {s : State} (h : Inv s) : InvParts s := by
  obtain ⟨⟨hbuf, hsin, hsout⟩, ⟨hhandle, hrunning, htxn⟩, ⟨htc, htt, hrc, hrcmp⟩, ⟨htx, hrx, hready, hfixed⟩,
    ⟨hrxBody, htxBody, hair⟩, htasks, hview⟩ := h
  exact
    { buf := hbuf, sin := hsin, sout := hsout, timer := ⟨hhandle .timer, hrunning, htc, htt⟩,
      rtc := ⟨hhandle .rtc, hrc, hrcmp⟩, i2c := ⟨hhandle .i2c, htxn⟩, rng := hhandle .rng,
      radio := ⟨htx, hrx, hready, hfixed, hrxBody, htxBody⟩, air := hair, tasks := htasks, view := hview }

theorem InvParts.inv {s : State} (h : InvParts s) : Inv s := by
  have hhandle : ∀ p, HandleInv (s.handle p)
    | .timer => h.timer.handle
    | .rtc => h.rtc.handle
    | .i2c => h.i2c.handle
    | .rng => h.rng
  exact ⟨⟨h.buf, h.sin, h.sout⟩, ⟨hhandle, h.timer.running, h.i2c.txn⟩,
    ⟨h.timer.counter, h.timer.target, h.rtc.counter, h.rtc.compare⟩,
    ⟨h.radio.tx, h.radio.rx, h.radio.ready, h.radio.fixed⟩, ⟨h.radio.rxBody, h.radio.txBody, h.air⟩, h.tasks, h.view⟩

/-! ### Handles and tasks -/

/-- An Active handle keeps its rule, which is about Idle ones. -/
theorem handleInv_of_active {h : Handle} (hp : h.phase = .active) : HandleInv h := by
  intro hidle
  rw [hp] at hidle
  cases hidle

theorem handleInv_released : HandleInv { phase := .idle, done := false, inten := false } := fun _ => ⟨rfl, rfl⟩

/-- Clearing the enable bit keeps the rule (40_blocking_primitive.md R145). -/
theorem HandleInv.clearEnable {h : Handle} (hi : HandleInv h) : HandleInv { h with inten := false } :=
  fun hidle => ⟨(hi hidle).1, rfl⟩

theorem TasksOk.append {xs ys : List Task} (hx : TasksOk xs) (hy : TasksOk ys) : TasksOk (xs ++ ys) :=
  fun r hr => (List.mem_append.1 hr).elim (hx r) (hy r)

theorem TasksOk.tail {t : Task} {ts : List Task} (h : TasksOk (t :: ts)) : TasksOk ts :=
  fun r hr => h r (List.mem_cons_of_mem t hr)

/-- Tasks among which no encode is under way. -/
theorem tasksOk_of_no_encode {ts : List Task} (h : ∀ r, Task.encodeFinish r ∉ ts) : TasksOk ts :=
  fun r hr => absurd hr (h r)

/-! ### Updates that keep the invariant -/

section Updates

variable {s : State} (h : InvParts s)

include h

theorem InvParts.setTimer {x : Timer} (hx : TimerOk s.par.timerWidth x) : InvParts (s.setTimer x) :=
  { h with timer := hx }

theorem InvParts.setRtc {x : Rtc} (hx : RtcOk s.par.rtcWidth x) : InvParts (s.setRtc x) := { h with rtc := hx }

theorem InvParts.setI2c {x : I2c} (hx : I2cOk x) : InvParts (s.setI2c x) := { h with i2c := hx }

theorem InvParts.setRng {x : Rng} (hx : HandleInv x.hd) : InvParts (s.setRng x) := { h with rng := hx }

theorem InvParts.setRadio {x : Radio} (hx : RadioOk s.par x) : InvParts (s.setRadio x) := { h with radio := hx }

theorem InvParts.setAir {x : List Frame} (hx : ∀ f ∈ x, bodyWf f.body = true) : InvParts (s.setAir x) :=
  { h with air := hx }

theorem InvParts.setHost {x : HostSide} (htasks : TasksOk x.todo) (hview : ViewOk x.view) : InvParts (s.setHost x) :=
  { h with tasks := htasks, view := hview }

theorem InvParts.setNonce (x : Nonce) : InvParts (s.setNonce x) := { h with }

theorem InvParts.setSeq (x : BitVec 32) : InvParts (s.setSeq x) := { h with }

theorem InvParts.setMode (x : CpuMode) : InvParts (s.setMode x) := { h with }

theorem InvParts.setHfclk (x : Bool) : InvParts (s.setHfclk x) := { h with }

theorem InvParts.setRefused (x : Bool) : InvParts (s.setRefused x) := { h with }

theorem InvParts.setTurns (x : List Turn) : InvParts (s.setTurns x) := { h with }

theorem InvParts.setResult (r : Result) : InvParts (s.setResult r) := h.setHost h.tasks h.view

theorem InvParts.refuse (why : Misuse) : InvParts (s.refuse why) := (h.setRefused true).setResult _

theorem InvParts.pushTasks {ts : List Task} (hts : TasksOk ts) : InvParts (s.pushTasks ts) :=
  h.setHost (hts.append h.tasks) h.view

theorem InvParts.setTasks {ts : List Task} (hts : TasksOk ts) : InvParts (s.setTasks ts) := h.setHost hts h.view

/-- A held host waits in an operation, not in an encode. -/
theorem InvParts.hold {t : Task} (ht : ∀ r, t ≠ .encodeFinish r) : InvParts (s.hold t) :=
  ((h.setMode .sleeping).pushTasks (tasksOk_of_no_encode fun r hr => ht r (List.mem_singleton.1 hr).symm)).setResult _

theorem InvParts.settle {x : Except Misuse State} (hx : ∀ t, x = .ok t → InvParts t) : InvParts (settle s x) := by
  obtain ⟨t, hok, ht⟩ | ⟨why, -, hr⟩ := settle_cases s x
  · rw [ht]; exact hx t hok
  · rw [hr]; exact h.refuse why

theorem InvParts.ite {c : Prop} [Decidable c] {t : State} (ht : c → InvParts t) : InvParts (if c then t else s) := by
  split
  · next hc => exact ht hc
  · exact h

/-- A wait keeps the invariant if its end does (40_blocking_primitive.md R143). -/
theorem InvParts.waitOn {p : Periph} {t : Task} {finish : State → State → State} (ht : ∀ r, t ≠ .encodeFinish r)
    (hfinish : (s.handle p).done = true → InvParts (finish s ((s.releaseHandle p).setMode .running))) :
    InvParts (waitOn p t finish s) := by
  obtain ⟨-, hdone, hw⟩ | ⟨-, -, hw⟩ | ⟨-, hw⟩ := waitOn_cases p t finish s
  · rw [hw]; exact hfinish hdone
  · rw [hw]; exact h.hold ht
  · rw [hw]; exact h.refuse _

/-- Bytes written inside a store (20_memory.md R78). -/
theorem InvParts.memWrite {st : Store} {a : Nat} {bs : List Byte} (hl : a + bs.length ≤ storeSize st) :
    InvParts (s.memWrite st a bs) := by
  cases st with
  | buf => exact { h with buf := Memory.wf_writeBytes bs h.buf hl }
  | sin => exact { h with sin := Memory.wf_writeBytes bs h.sin hl }
  | sout => exact { h with sout := Memory.wf_writeBytes bs h.sout hl }

/-- A scratch buffer has room for 254 bytes behind its header (30_encoding.md R110). -/
theorem InvParts.fillScratch {st : Store} {content : List Byte} (hl : content.length ≤ 254) :
    InvParts (s.fillScratch st content) := by
  refine h.memWrite ?_
  have hsize : 257 ≤ storeSize st := by cases st <;> decide
  simp only [List.length_cons]
  omega

/-! ### The timer, the real-time counter and the generator -/

/-- A running timer is Active and not done, so a released one has stopped. -/
theorem InvParts.timer_stopped (hdone : s.timer.hd.done = true) : ¬ s.timer.running = true := by
  intro hr
  have := (h.timer.running hr).2
  rw [hdone] at this
  cases this

theorem InvParts.timerStart {ticks : BitVec 32} {t : State} (ht : timerStart ticks s = .ok t) : InvParts t := by
  obtain ⟨hidle, -, hlt, rfl⟩ := (timerStart_ok_iff ticks s t).1 ht
  have hx : TimerOk s.par.timerWidth
      { hd := { s.timer.hd with inten := true, phase := .active }, counter := 0, target := ticks.toNat,
        running := true } :=
    { handle := handleInv_of_active rfl, running := fun _ => ⟨rfl, (h.timer.handle hidle).1⟩,
      counter := Nat.pow_pos (by decide), target := hlt }
  exact (h.setTimer hx).setResult _

theorem InvParts.rtcStart {compare : BitVec 32} {t : State} (ht : rtcStart compare s = .ok t) : InvParts t := by
  obtain ⟨-, hlt, rfl⟩ := (rtcStart_ok_iff compare s t).1 ht
  have hx : RtcOk s.par.rtcWidth
      { hd := { s.rtc.hd with inten := true, phase := .active }, counter := 0, compare := compare.toNat,
        running := true } :=
    { handle := handleInv_of_active rfl, counter := Nat.pow_pos (by decide), compare := hlt }
  exact (h.setRtc hx).setResult _

theorem InvParts.startRng : InvParts (s.startHandle .rng) :=
  h.setRng (x := { s.rng with hd := { s.rng.hd with inten := true, phase := .active } }) (handleInv_of_active rfl)

theorem InvParts.rngStart {t : State} (ht : rngStart s = .ok t) : InvParts t := by
  obtain ⟨-, rfl⟩ := (rngStart_ok_iff s t).1 ht
  exact h.startRng.setResult _

theorem InvParts.timerWait : InvParts (Machine.waitOn .timer (.op .timerWait) finishUnit s) := by
  refine h.waitOn nofun fun hdone => ?_
  have hx : TimerOk s.par.timerWidth { s.timer with hd := { phase := .idle, done := false, inten := false } } :=
    { h.timer with handle := handleInv_released, running := fun hr => absurd hr (h.timer_stopped hdone) }
  exact ((h.setTimer hx).setMode .running).setResult _

theorem InvParts.rtcWait : InvParts (Machine.waitOn .rtc (.op .rtcWait) finishUnit s) :=
  h.waitOn nofun fun _ =>
    ((h.setRtc (x := { s.rtc with hd := _ }) { h.rtc with handle := handleInv_released }).setMode .running).setResult _

theorem InvParts.releaseRng : InvParts ((s.releaseHandle .rng).setMode .running) :=
  (h.setRng (x := { s.rng with hd := _ }) handleInv_released).setMode .running

theorem InvParts.timerTick (hr : s.timer.running = true) : InvParts (timerTick s) := by
  obtain ⟨hactive, hdone⟩ := h.timer.running hr
  have hlt := nextCount_lt s.par.timerWidth s.timer.counter
  unfold Machine.timerTick
  dsimp only
  split
  · exact h.setTimer
      { h.timer with handle := handleInv_of_active hactive, counter := hlt, running := fun hn => by cases hn }
  · exact h.setTimer { h.timer with counter := hlt }

theorem InvParts.rtcTick : InvParts (rtcTick s) := by
  have hlt := nextCount_lt s.par.rtcWidth s.rtc.counter
  unfold Machine.rtcTick
  dsimp only
  split
  · next hmatch =>
    exact h.setRtc { h.rtc with handle := handleInv_of_active hmatch.2, counter := hlt }
  · exact h.setRtc { h.rtc with counter := hlt }

theorem InvParts.rngProduce {v : Byte} (he : rngProduceEnabled s = true) : InvParts (rngProduce v s) := by
  have hactive : s.rng.hd.phase = .active := by
    simp only [rngProduceEnabled, Bool.and_eq_true, beq_iff_eq] at he
    exact he.1
  exact h.setRng (x := { hd := { s.rng.hd with done := true }, value := v }) (handleInv_of_active hactive)

theorem InvParts.rngPoll {t : State} (ht : rngPoll s = .ok t) : InvParts t := by
  obtain ⟨-, rfl⟩ := (rngPoll_ok_iff s t).1 ht
  split
  · exact (h.setRng (x := { s.rng with hd := _ }) handleInv_released).setResult _
  · exact h.setResult _

/-! ### The I2C driver -/

theorem InvParts.i2cStart {addr : Byte} {wdata : List Byte} {rlen : Byte} {t : State}
    (ht : i2cStart addr wdata rlen s = .ok t) : InvParts t := by
  obtain ⟨-, -, -, rfl⟩ := (i2cStart_ok_iff addr wdata rlen s t).1 ht
  exact (h.setI2c (x := { s.i2c with hd := _, txn := some _, rdata := [], err := .noError })
    { handle := handleInv_of_active rfl, txn := by simp }).setResult _

theorem InvParts.i2cEnable {t : State} (ht : i2cEnable s = .ok t) : InvParts t := by
  obtain ⟨-, rfl⟩ := (i2cEnable_ok_iff s t).1 ht
  exact (h.setI2c (x := { s.i2c with enabled := true }) { h.i2c with }).setResult _

theorem InvParts.i2cDisable {t : State} (ht : i2cDisable s = .ok t) : InvParts t := by
  obtain ⟨-, rfl⟩ := (i2cDisable_ok_iff s t).1 ht
  exact (h.setI2c (x := { s.i2c with enabled := false }) { h.i2c with }).setResult _

theorem InvParts.i2cWait : InvParts (Machine.waitOn .i2c (.op .i2cWait) finishI2c s) := by
  refine h.waitOn nofun fun _ => ?_
  have hx : I2cOk
      { s.i2c with
        hd := { phase := .idle, done := false, inten := false }, txn := none, rdata := [], err := .noError } :=
    { handle := handleInv_released, txn := by simp }
  have hcleared := (h.setI2c hx).setMode .running
  unfold finishI2c
  dsimp only
  split <;> exact hcleared.setResult _

theorem InvParts.i2cComplete {a : Answer} (he : i2cCompleteEnabled a s = true) : InvParts (i2cComplete a s) := by
  have hactive : s.i2c.hd.phase = .active := by
    simp only [i2cCompleteEnabled, Bool.and_eq_true, beq_iff_eq] at he
    exact he.1.1.1
  unfold Machine.i2cComplete
  split
  · next rdata err _ =>
    exact h.setI2c (x := { s.i2c with hd := { s.i2c.hd with done := true }, rdata := rdata, err := err })
      { h.i2c with handle := handleInv_of_active hactive }
  · exact h

/-! ### The generic handlers -/

theorem InvParts.genericHandler (p : Periph) : InvParts (genericHandler p s) := by
  cases p with
  | timer => exact h.setTimer { h.timer with handle := HandleInv.clearEnable h.timer.handle }
  | rtc => exact h.setRtc { h.rtc with handle := HandleInv.clearEnable h.rtc.handle }
  | i2c => exact h.setI2c { h.i2c with handle := HandleInv.clearEnable h.i2c.handle }
  | rng => exact h.setRng (HandleInv.clearEnable h.rng)

theorem InvParts.serviceIrq {line : Bool} {handler : State → State} (hh : line = true → InvParts (handler s)) :
    InvParts (serviceIrq line handler s) := by
  obtain ⟨hline, he⟩ | ⟨-, he⟩ := serviceIrq_cases line handler s
  · rw [he]; exact hh hline
  · rw [he]; exact h

end Updates

/-! ### The radio -/

/-- A radio that is armed for its role and has nothing new in progress. -/
theorem RadioOk.armed {p : Params} {x y : Radio} (hx : RadioOk p x) (hstate : y.state = .ready)
    (hptr : y.pktptr = .toBuf) (htx : y.dir = .tx → y.cfg = .txCfg) (hrx : y.dir = .rx → y.cfg = .rxCfg)
    (hcfg : y.cfg = x.cfg) (hshorts : y.shorts = x.shorts) (hconf : y.conf = x.conf) (hrxp : y.rxProg = x.rxProg)
    (htxp : y.txProg = x.txProg) : RadioOk p y where
  tx := by rw [hstate]; exact nofun
  rx := by rw [hstate]; exact nofun
  ready _ := ⟨hptr, htx, hrx⟩
  fixed := by rw [hcfg, hshorts, hconf]; exact hx.fixed
  rxBody := by rw [hrxp]; exact hx.rxBody
  txBody := by rw [htxp]; exact hx.txBody

/-- A Disabled radio has no role to keep. -/
theorem RadioOk.disabled {p : Params} {x y : Radio} (hx : RadioOk p x) (hstate : y.state = .disabled)
    (hcfg : y.cfg = x.cfg) (hshorts : y.shorts = x.shorts) (hconf : y.conf = x.conf)
    (hrxp : y.rxProg = x.rxProg ∨ y.rxProg = none) (htxp : y.txProg = x.txProg ∨ y.txProg = none) : RadioOk p y where
  tx := by rw [hstate]; exact nofun
  rx := by rw [hstate]; exact nofun
  ready := by rw [hstate]; exact nofun
  fixed := by rw [hcfg, hshorts, hconf]; exact hx.fixed
  rxBody := by
    rcases hrxp with hr | hr <;> rw [hr]
    · exact hx.rxBody
    · exact nofun
  txBody := by
    rcases htxp with ht | ht <;> rw [ht]
    · exact hx.txBody
    · exact nofun

/-- The view of a length byte that counts itself lies inside `BUF` (44_radio.md R251). -/
theorem viewOk_payloadView (l : Byte) : ViewOk (payloadView l) := by
  intro offset length hv
  have hl := l.isLt
  unfold payloadView at hv
  split at hv
  · cases hv
  · cases hv
    omega

section RadioUpdates

variable {s : State} (h : InvParts s)

include h

theorem InvParts.setEvents (ev : Events) : InvParts (s.setEvents ev) := h.setRadio { h.radio with }

theorem InvParts.radioInit {c : RadioCfg} {t : State} (ht : radioInit c s = .ok t) : InvParts t := by
  obtain ⟨hstate, rfl⟩ := (radioInit_ok_iff c s t).1 ht
  have hx : RadioOk s.par
      { s.radio with conf := fixedConf s.par, shorts := { readyStart := true, endDisable := true }, cfg := c } :=
    { h.radio with
      tx := by rw [hstate]; exact nofun
      rx := by rw [hstate]; exact nofun
      ready := by rw [hstate]; exact nofun
      fixed := fun _ => ⟨rfl, rfl⟩ }
  exact (h.setRadio hx).setResult _

theorem InvParts.armRadio {d : Direction} (htx : d = .tx → s.radio.cfg = .txCfg) (hrx : d = .rx → s.radio.cfg = .rxCfg) :
    InvParts (armRadio d s) :=
  h.setRadio (h.radio.armed rfl rfl htx hrx rfl rfl rfl rfl rfl)

theorem InvParts.radioStartTx {strings : List (List Byte)} {t : State} (ht : radioStartTx strings s = .ok t) :
    InvParts t := by
  obtain ⟨⟨hcfg, -, hlen⟩, rfl⟩ := (radioStartTx_ok_iff_memWrite strings s t).1 ht
  have hroom : 0 + (lengthByte strings.flatten.length :: strings.flatten).length ≤ storeSize .buf := by
    simp only [List.length_cons, storeSize]
    omega
  exact ((h.memWrite hroom).armRadio (d := .tx) (fun _ => hcfg) nofun).setResult _

theorem InvParts.radioStartRx {t : State} (ht : radioStartRx s = .ok t) : InvParts t := by
  obtain ⟨hcfg, -, rfl⟩ := (radioStartRx_ok_iff s t).1 ht
  exact (h.armRadio (d := .rx) nofun fun _ => hcfg).setResult _

theorem InvParts.radioEventRead {k : Byte} {t : State} (ht : radioEventRead k s = .ok t) : InvParts t := by
  obtain ⟨_, -, rfl⟩ := (radioEventRead_ok_iff k s t).1 ht
  exact h.setResult _

theorem InvParts.hfclkStop {t : State} (ht : hfclkStop s = .ok t) : InvParts t := by
  obtain ⟨-, rfl⟩ := (hfclkStop_ok_iff s t).1 ht
  exact (h.setHfclk false).setResult _

theorem InvParts.radioPayload (l : Byte) : InvParts (s.okView (payloadView l)) :=
  (h.setHost (x := { s.host with view := payloadView l }) h.tasks (viewOk_payloadView l)).setResult _

theorem InvParts.disableTask : InvParts (disableTask s) :=
  h.setRadio (h.radio.disabled rfl rfl rfl rfl (.inr rfl) (.inr rfl))

theorem InvParts.chainDisable : InvParts (chainDisable s) := by
  obtain ⟨-, he⟩ | ⟨-, he⟩ := chainDisable_cases s
  · rw [he]
    exact h.setRadio (h.radio.disabled rfl rfl rfl rfl (.inl rfl) (.inl rfl))
  · rw [he]; exact h

/-- The start task takes a Ready radio to the role it is armed for (44_radio.md R226). -/
theorem InvParts.startTask (hready : s.radio.state = .ready) : InvParts (startTask s) := by
  obtain ⟨hptr, htx, hrx⟩ := h.radio.ready hready
  obtain ⟨hd, he⟩ | ⟨hd, he⟩ := startTask_cases s
  · rw [he]
    exact h.setRadio
      { h.radio with
        tx := fun _ => ⟨htx hd, hptr⟩, rx := nofun, ready := nofun
        txBody := by rintro f ⟨⟩; exact bodyWf_txBody s }
  · rw [he]
    exact h.setRadio { h.radio with tx := nofun, rx := fun _ => ⟨hrx hd, hptr⟩, ready := nofun, rxBody := nofun }

theorem InvParts.radioRamp (hready : s.radio.state = .ready) : InvParts (radioRamp s) := by
  unfold Machine.radioRamp
  dsimp only
  split
  · exact (h.setEvents _).startTask hready
  · exact h.setEvents _

/-- A frame that leaves the radio was captured by it (44_radio.md R229). -/
theorem InvParts.radioTxEnd : InvParts (radioTxEnd s) := by
  have hair : ∀ f ∈ s.air ++ s.radio.txProg.toList, bodyWf f.body = true := by
    intro f hf
    rcases List.mem_append.1 hf with hf | hf
    · exact h.air f hf
    · exact h.radio.txBody f (Option.mem_toList.1 hf)
  exact ((h.setAir hair).setRadio (x := { s.radio with txProg := none, ev := _ })
    { h.radio with txBody := nofun }).chainDisable

theorem InvParts.rxOffer {f : Frame} {rssi : Rssi} (hf : bodyWf f.body = true) : InvParts (rxOffer f rssi s) := by
  obtain ⟨-, he⟩ | ⟨-, he⟩ := rxOffer_cases f rssi s
  · rw [he]
    exact h.setRadio { h.radio with rxBody := by rintro g i ⟨⟩; exact ⟨hf, Nat.zero_le _⟩ }
  · rw [he]
    exact h.setRadio { h.radio with }

theorem InvParts.receiveFrame {f : Frame} {rssi : Rssi} (hf : bodyWf f.body = true) :
    InvParts (receiveFrame f rssi s) := h.ite fun _ => h.rxOffer hf

theorem InvParts.dropFrame (n : Nat) : InvParts (s.dropFrame n) :=
  h.setAir fun f hf => h.air f (List.mem_of_mem_eraseIdx hf)

/-- A stored byte moves the index on inside the body (44_radio.md R237). -/
theorem InvParts.radioRxStore {t : State} (ht : execRadioRxStore s = .next t) : InvParts t := by
  unfold execRadioRxStore at ht
  split at ht
  · cases ht; exact h
  · next f i b hpending =>
    obtain ⟨-, hprog, hbyte⟩ := (storePending_eq_some_iff s f i b).1 hpending
    obtain ⟨hi, -⟩ := List.getElem?_eq_some_iff.1 hbyte
    split at ht
    · next hroom =>
      cases ht
      have hnext : ∀ g j, some (f, i + 1) = some (g, j) → bodyWf g.body = true ∧ j ≤ g.body.length := by
        rintro g j ⟨⟩
        exact ⟨(h.radio.rxBody f i hprog).1, hi⟩
      exact (h.memWrite (st := .buf) (a := i) (bs := [b]) hroom).setRadio { h.radio with rxBody := hnext }
    · cases ht

/-- The drawn bytes fill `BUF` from the end of the body, which is inside it (44_radio.md R238, R240). -/
theorem InvParts.rxEnd {f : Frame} {tail : List Byte} (hf : endPending s = some f) (htail : tailFits f tail = true) :
    InvParts (rxEnd f tail s) := by
  obtain ⟨-, hprog⟩ := (endPending_eq_some_iff s f).1 hf
  obtain ⟨-, hbody⟩ := bodyWf_bounds (h.radio.rxBody f _ hprog).1
  have hroom : f.body.length + tail.length ≤ storeSize .buf := by
    simp only [tailFits, beq_iff_eq] at htail
    simp only [storeSize]
    omega
  exact ((h.memWrite hroom).setRadio (x := { s.radio with rxProg := none, ev := _ })
    { h.radio with rxBody := nofun }).chainDisable

theorem InvParts.radioRxEnd {tail : List Byte} {t : State} (ht : execRadioRxEnd tail s = .next t) : InvParts t := by
  cases ht
  split
  · exact h
  · next f hf => exact h.ite fun htail => h.rxEnd hf htail

theorem InvParts.envAirDeliver {n : Nat} {body : List Byte} {crc : BitVec 24} {rssi : Rssi} {t : State}
    (ht : execEnvAirDeliver n body crc rssi s = .next t) : InvParts t := by
  cases ht
  split
  · exact h
  · exact h.ite fun hbody => (h.dropFrame n).receiveFrame hbody

theorem InvParts.radioRxHandler (hcfg : s.radio.cfg = .rxCfg) : InvParts (radioRxHandler s) := by
  have hlatched : InvParts (s.setRadio { s.radio with rxLatch := s.radio.ev.latch, ev := Events.clear }) :=
    h.setRadio { h.radio with }
  have harmed := hlatched.armRadio (d := .rx) nofun fun _ => hcfg
  exact harmed.ite fun _ => harmed.setMode .running

end RadioUpdates

/-! ### The codec -/

section CodecUpdates

variable {s : State} (h : InvParts s)

include h

theorem InvParts.drawNonce {rest : List Task} (hrest : TasksOk rest) {t : State} (ht : drawNonce rest s = .ok t) :
    InvParts t := by
  obtain ⟨-, rfl⟩ := (drawNonce_ok_iff rest s t).1 ht
  have hnonce : TasksOk nonceTasks := tasksOk_of_no_encode fun r => by simp [nonceTasks]
  exact (h.startRng.pushTasks (hnonce.append hrest)).setResult _

/-- An encode stands in the tasks only after its length check (45_codec.md R277). -/
theorem InvParts.encodeBegin {r : Record} {rest : List Task} (hrest : (ser r).length ≤ 240 → TasksOk rest) {t : State}
    (ht : encodeBegin r rest s = .ok t) : InvParts t := by
  obtain ⟨-, hlen, hdraw⟩ := (encodeBegin_ok_iff r rest s t).1 ht
  exact (h.fillScratch (by omega)).drawNonce (hrest hlen) hdraw

theorem InvParts.okStrings (xs : List (List Byte)) : InvParts (s.okStrings xs) :=
  (h.setHost (x := { s.host with pkt := xs }) h.tasks h.view).setResult _

theorem InvParts.encodePlain {r : Record} {t : State} (ht : encodePlain r s = .ok t) : InvParts t := by
  obtain ⟨-, -, rfl⟩ := (encodePlain_ok_iff r s t).1 ht
  exact h.okStrings _

theorem InvParts.encodeFinish {ae : AE} {r : Record} (hlen : (ser r).length ≤ 240) : InvParts (encodeFinish ae r s) := by
  have hroom : (ae.enc s.par.key s.nonce (ser r)).length ≤ 254 := by
    rw [ae.enc_length _ _ _ (by omega)]
    omega
  exact (h.fillScratch hroom).okStrings _

theorem InvParts.interpret (ty : BitVec 15) (p : List Byte) : InvParts (interpret ty p s) := by
  rw [interpret_eq]
  exact h.setResult _

theorem InvParts.zeroSout : InvParts (zeroSout s) := by
  refine h.memWrite ?_
  rw [List.length_replicate]
  exact Nat.le_refl 257

theorem InvParts.decrypted {ty : BitVec 15} {r : Option (List Byte)} (hr : ∀ p, r = some p → p.length ≤ 254) :
    InvParts (decrypted ty r s) := by
  cases r with
  | none => exact h.zeroSout.setResult _
  | some p => exact (h.fillScratch (hr p rfl)).interpret ty p

/-- The clamp of the ciphertext keeps both scratch buffers inside their stores (45_codec.md R282). -/
theorem InvParts.decodeEnc {ae : AE} {ty : BitVec 15} {content : List Byte} : InvParts (decodeEnc ae ty content s) := by
  have hc : (cipherPart content).length ≤ 254 := by rw [cipherPart_length]; omega
  unfold Machine.decodeEnc
  split
  · exact h.setResult _
  · dsimp only
    split
    · exact (h.setNonce _).setResult _
    · refine ((h.setNonce _).fillScratch hc).decrypted fun p hp => ?_
      have := ae.dec_length _ _ _ _ hc hp
      omega

theorem InvParts.decodePlain {ty : BitVec 15} {content : List Byte} : InvParts (decodePlain ty content s) := by
  unfold Machine.decodePlain
  split
  · exact h.interpret ty content
  · exact h.setResult _

theorem InvParts.decodePayload {ae : AE} {v : List Byte} : InvParts (decodePayload ae v s) := by
  unfold Machine.decodePayload
  split
  · exact h.decodeEnc
  · exact h.decodePlain
  · exact h.setResult _

/-! ### Pseudo-operations -/

theorem InvParts.waitTxDone : InvParts (waitTxDone s) := by
  unfold Machine.waitTxDone
  split
  · exact h.setResult _
  · exact (h.pushTasks (tasksOk_of_no_encode fun r => by simp)).setResult _

theorem InvParts.waitRx : InvParts (waitRx s) := by
  unfold Machine.waitRx
  split
  · exact h.hold nofun
  · exact (h.setMode .running).setResult _

theorem InvParts.blockingStart {c : BlockingCall} {t : State} (ht : blockingStart c s = .ok t) : InvParts t := by
  cases c with
  | timer ticks => exact h.timerStart ht
  | rtc compare => exact h.rtcStart ht
  | i2c addr wdata rlen => exact h.i2cStart ht
  | rng => exact h.rngStart ht

theorem InvParts.blockingBegin {c : BlockingCall} {t : State} (ht : blockingBegin c s = .ok t) : InvParts t := by
  unfold Machine.blockingBegin at ht
  split at ht
  · next u hu =>
    cases ht
    exact (h.blockingStart hu).pushTasks (tasksOk_of_no_encode fun r => by simp)
  · cases ht

end CodecUpdates

/-! ### Every instruction, every task, every step -/

theorem rampEnabled_iff (s : State) : rampEnabled s = true ↔ s.radio.state = .ready ∧ s.hfclk = true := by
  simp [rampEnabled]

/-- An encode that has begun leaves only tasks that passed the length check. -/
theorem tasksOk_encodeFinish {r : Record} {after : List Task} (hafter : TasksOk after) (hlen : (ser r).length ≤ 240) :
    TasksOk (.encodeFinish r :: after) := by
  intro r' hr'
  rcases List.mem_cons.1 hr' with he | hm
  · cases he; exact hlen
  · exact hafter r' hm

theorem exec_keepsInv {i : Instr} {s t : State} (h : InvParts s) (ht : exec i s = .next t) : InvParts t := by
  cases i with
  | timerStart ticks => cases ht; exact h.settle fun _ => h.timerStart
  | timerWait => cases ht; exact h.timerWait
  | rtcStart compare => cases ht; exact h.settle fun _ => h.rtcStart
  | rtcWait => cases ht; exact h.rtcWait
  | rngStart => cases ht; exact h.settle fun _ => h.rngStart
  | rngWait => cases ht; exact h.waitOn nofun fun _ => h.releaseRng.setResult _
  | rngPoll => cases ht; exact h.settle fun _ => h.rngPoll
  | i2cEnable => cases ht; exact h.settle fun _ => h.i2cEnable
  | i2cDisable => cases ht; exact h.settle fun _ => h.i2cDisable
  | i2cStart addr wdata rlen => cases ht; exact h.settle fun _ => h.i2cStart
  | i2cWait => cases ht; exact h.i2cWait
  | radioInitTx => cases ht; exact h.settle fun _ => h.radioInit
  | radioInitRx => cases ht; exact h.settle fun _ => h.radioInit
  | radioStartTx strings => cases ht; exact h.settle fun _ => h.radioStartTx
  | radioStartRx => cases ht; exact h.settle fun _ => h.radioStartRx
  | radioPayload => cases ht; exact h.radioPayload _
  | radioEventRead k => cases ht; exact h.settle fun _ => h.radioEventRead
  | radioEventResetAll => cases ht; exact (h.setEvents _).setResult _
  | radioDisable =>
    cases ht
    exact (h.setRadio (x := { s.radio with inten := false }) { h.radio with }).disableTask.setResult _
  | radioTakeRx => cases ht; exact (h.setRadio (x := { s.radio with rxLatch := .noRx }) { h.radio with }).setResult _
  | codecEncodeEnc r =>
    cases ht
    exact h.settle fun _ => h.encodeBegin (tasksOk_encodeFinish (tasksOk_of_no_encode fun r => by simp))
  | codecEncodePlain r => cases ht; exact h.settle fun _ => h.encodePlain
  | codecDecode v => cases ht; exact h.decodePayload
  | hfclkStart => cases ht; exact (h.setHfclk true).setResult _
  | hfclkStop => cases ht; exact h.settle fun _ => h.hfclkStop
  | timerTick => cases ht; exact h.ite h.timerTick
  | rtcTick => cases ht; exact h.ite fun _ => h.rtcTick
  | rngProduce v => cases ht; exact h.ite h.rngProduce
  | i2cComplete a => cases ht; exact h.ite h.i2cComplete
  | radioRamp => cases ht; exact h.ite fun he => h.radioRamp ((rampEnabled_iff s).1 he).1
  | radioTxEnd => cases ht; exact h.ite fun _ => h.radioTxEnd
  | radioRxOffer f rssi => cases ht; exact h.ite fun he => h.rxOffer (Bool.and_eq_true_iff.1 he).2
  | radioRxStore => exact h.radioRxStore ht
  | radioRxEnd tail => exact h.radioRxEnd ht
  | radioShortStart =>
    cases ht
    refine h.ite fun he => h.startTask ?_
    simp only [Bool.and_eq_true, rampEnabled_iff] at he
    exact he.1.1.1
  | radioShortDisable => cases ht; exact h.ite fun _ => h.chainDisable
  | irqTimer => cases ht; exact h.serviceIrq fun _ => h.genericHandler _
  | irqRtc => cases ht; exact h.serviceIrq fun _ => h.genericHandler _
  | irqRng => cases ht; exact h.serviceIrq fun _ => h.genericHandler _
  | irqI2c => cases ht; exact h.serviceIrq fun _ => h.genericHandler _
  | irqRadioTx => cases ht; exact h.serviceIrq fun _ => h.setRadio { h.radio with }
  | irqRadioRx =>
    cases ht
    refine h.serviceIrq fun hline => h.radioRxHandler ?_
    exact eq_of_beq (Bool.and_eq_true_iff.1 hline).2
  | envAirDeliver n body crc rssi => exact h.envAirDeliver ht
  | envAirDrop n => cases ht; exact h.dropFrame n
  | waitTxDone => cases ht; exact h.waitTxDone
  | blocking c => cases ht; exact h.settle fun _ => h.blockingBegin
  | drawNonce => cases ht; exact h.settle fun _ => h.drawNonce (tasksOk_of_no_encode fun r => by simp)
  | sendEncrypted r =>
    cases ht
    exact h.settle fun _ =>
      h.encodeBegin (tasksOk_encodeFinish (tasksOk_of_no_encode fun r => by simp [sendTasks]))
  | waitRx => cases ht; exact h.waitRx
  | pktPlain ty content => cases ht; exact h.decodePlain
  | pktEnc ty content => cases ht; exact h.decodeEnc
  | cfgword board major minor patch => cases ht; exact h.setResult _

/-- No sensor read of a pass leaves an encode in the tasks. -/
theorem tasksOk_nodePass (c : CycleInputs) : TasksOk (nodePass c) :=
  tasksOk_of_no_encode fun r => by simp [nodePass, readTasks]

section TaskUpdates

variable {s : State} (h : InvParts s)

include h

theorem InvParts.haltOnFailure : InvParts (haltOnFailure s) := by
  unfold Machine.haltOnFailure
  split
  · exact h.ite fun _ => h.setMode .halted
  · exact h

theorem InvParts.sensorReport (f : Option SensorFault) : InvParts (sensorReport f s) := by
  unfold Machine.sensorReport
  split
  · exact h.setResult _
  · exact h.setResult _
  · exact h.setResult _

theorem InvParts.battery (v : Nat) : InvParts (battery v s) :=
  h.ite fun _ => h.setTasks (tasksOk_of_no_encode fun r => by simp)

theorem InvParts.assemble (ty : BitVec 15) (x : BitVec 16) (f : List Byte) : InvParts (assemble ty x f s) :=
  (h.setSeq _).setHost h.tasks h.view

theorem InvParts.encodeRecord {t : State} (ht : encodeRecord s = .next t) : InvParts t := by
  unfold Machine.encodeRecord at ht
  split at ht
  · cases ht; exact h.refuse _
  · split at ht
    · exact exec_keepsInv h ht
    · exact exec_keepsInv h ht

theorem InvParts.nodeSample : InvParts (nodeSample s) := by
  have hhost : (nextInputs s.host).2.todo = s.host.todo ∧ (nextInputs s.host).2.view = s.host.view := by
    unfold nextInputs
    split
    · exact ⟨rfl, rfl⟩
    · exact ⟨rfl, rfl⟩
  obtain ⟨htodo, hview⟩ := hhost
  have hnext : InvParts (s.setHost (nextInputs s.host).2) :=
    h.setHost (by rw [htodo]; exact h.tasks) (by rw [hview]; exact h.view)
  exact hnext.pushTasks (tasksOk_nodePass _)

theorem InvParts.gatewayCheck : InvParts (gatewayCheck s) := by
  unfold Machine.gatewayCheck
  split
  · next rssi _ =>
    exact (h.setHost (x := { s.host with rssi := rssi }) h.tasks h.view).pushTasks
      (tasksOk_of_no_encode fun r => by simp)
  · exact h

theorem InvParts.gatewayView : InvParts (gatewayView s) := by
  unfold Machine.gatewayView
  split
  · exact h.pushTasks (tasksOk_of_no_encode fun r => by simp)
  · exact h

theorem InvParts.gatewayForward : InvParts (gatewayForward s) := by
  unfold Machine.gatewayForward
  split
  · exact h.setHost h.tasks h.view
  · exact h

theorem InvParts.rejectWord (e : DecodeError) : InvParts (rejectWord e s) := by
  obtain he | ⟨why, he⟩ := rejectWord_cases e s
  · rw [he]; exact h.setResult _
  · rw [he]; exact h.refuse why

end TaskUpdates

theorem runTask_keepsInv {x : Task} {s t : State} (h : InvParts s) (hx : TasksOk [x]) (ht : runTask x s = .next t) :
    InvParts t := by
  cases x with
  | op i => exact exec_keepsInv h ht
  | nonceStart => cases ht; exact h.settle fun _ => h.rngStart
  | nonceTake i => cases ht; exact h.waitOn nofun fun _ => (h.releaseRng.setNonce _).setResult _
  | encodeFinish r => cases ht; exact h.encodeFinish (hx r List.mem_cons_self)
  | bootRead => exact exec_keepsInv (i := decodeConfig s.par.cfgword) h ht
  | sendPacket => exact exec_keepsInv (i := .radioStartTx s.host.pkt) h ht
  | haltOnFailure => cases ht; exact h.haltOnFailure
  | sensorReport f => cases ht; exact h.sensorReport f
  | battery v => cases ht; exact h.battery v
  | assemble ty x f => cases ht; exact h.assemble ty x f
  | encodeRecord => exact h.encodeRecord ht
  | nodeLoop => cases ht; exact h.pushTasks (tasksOk_of_no_encode fun r => by simp [nodeWake])
  | nodeSample => cases ht; exact h.nodeSample
  | lowBattery => cases ht; exact h.pushTasks (tasksOk_of_no_encode fun r => by simp)
  | gatewayCheck => cases ht; exact h.gatewayCheck
  | gatewayView => cases ht; exact h.gatewayView
  | gatewayForward => cases ht; exact h.gatewayForward
  | gatewayLoop => cases ht; exact h.pushTasks (tasksOk_of_no_encode fun r => by simp [gatewayPass])

theorem issue_keepsInv {s t : State} (h : InvParts s) (ht : issue s = .next t) : InvParts t := by
  have hwords (ws : List HostWord) : InvParts (s.setWords ws) := h.setHost h.tasks h.view
  obtain ⟨-, he⟩ | ⟨_, _, _, _, -, -, he⟩ | ⟨_, _, e, -, -, he⟩ := issue_cases s
  · cases he.symm.trans ht; exact h
  · exact exec_keepsInv (hwords _) (he.symm.trans ht)
  · cases he.symm.trans ht; exact (hwords _).rejectWord e

theorem hostTurn_keepsInv {s t : State} (h : InvParts s) (ht : hostTurn s = .next t) : InvParts t := by
  obtain ⟨-, he⟩ | ⟨-, x, ts, htodo, he⟩ | ⟨-, -, he⟩ := hostTurn_cases s
  · cases he.symm.trans ht; exact h
  · have htasks : TasksOk (x :: ts) := htodo ▸ h.tasks
    have hx : TasksOk [x] := fun r hr => htasks r (List.mem_singleton.1 hr ▸ List.mem_cons_self)
    exact runTask_keepsInv (h.setTasks htasks.tail) hx (he.symm.trans ht)
  · exact issue_keepsInv h (he.symm.trans ht)

theorem step_keepsInv {s t : State} (h : InvParts s) (ht : step s = .next t) : InvParts t := by
  obtain ⟨-, he⟩ | ⟨ts, -, he⟩ | ⟨i, ts, -, he⟩ := step_cases s
  · cases he.symm.trans ht; exact h
  · exact hostTurn_keepsInv (h.setTurns ts) (he.symm.trans ht)
  · obtain ⟨-, ha⟩ | ⟨-, ha⟩ := agentTurn_cases i (s.setTurns ts)
    · exact exec_keepsInv (h.setTurns ts) (ha.symm.trans (he.symm.trans ht))
    · cases ha.symm.trans (he.symm.trans ht)

/-- Settles O11: element by element, `step_keepsInv`. -/
theorem stepKeepsTheInvariant : Obligations.StepKeepsTheInvariant :=
  fun _ _ h ht => (step_keepsInv (Inv.parts h) ht).inv

/-- Settles O12: the unspecified targets are reduced below their width, and nothing else that `Inv` speaks of is unknown
after power-on. -/
theorem powerOnMeetsTheInvariant : Obligations.PowerOnMeetsTheInvariant := by
  have hpos (w : Nat) : 0 < 2 ^ w := Nat.pow_pos (by decide)
  have hparts : InvParts State.reset :=
    { buf := Memory.wf_nil _, sin := Memory.wf_nil _, sout := Memory.wf_nil _
      timer :=
        { handle := handleInv_released, running := nofun, counter := hpos _, target := Nat.mod_lt _ (hpos _) }
      rtc := { handle := handleInv_released, counter := hpos _, compare := Nat.mod_lt _ (hpos _) }
      i2c := { handle := handleInv_released, txn := by simp [State.reset, Handle.reset] }
      rng := handleInv_released
      radio :=
        { tx := nofun, rx := nofun, ready := nofun, fixed := fun h => absurd rfl h, rxBody := nofun, txBody := nofun }
      air := nofun, tasks := nofun, view := nofun }
  exact hparts.inv

end Sys2Proof.Machine
end

section
/-! ## Proofs: what each instruction writes (20_memory.md section 1, 10_state.md sections 5 and 6)

`footprint` lists the elements of the state an instruction may write, and `exec_writes` says that it writes no other. The
statements about who writes a store, a parameter, the sequence index or the host's side are read off that table. -/

namespace Sys2Proof.Machine

/-! ### The elements of the state -/

/-- The elements of the state, the host's side field by field. -/
inductive Elem
  | timer | rtc | i2c | rng | radio | buf | sin | sout | nonce | seq | mode | hfclk | refused | par | turns | air
  | words | todo | result | pkt | view | inputs | passes | record | rssi | forwarded
deriving DecidableEq

/-- Two states have the same value of this element. -/
def Elem.Same : Elem → State → State → Prop
  | .timer, s, t => t.timer = s.timer
  | .rtc, s, t => t.rtc = s.rtc
  | .i2c, s, t => t.i2c = s.i2c
  | .rng, s, t => t.rng = s.rng
  | .radio, s, t => t.radio = s.radio
  | .buf, s, t => t.buf = s.buf
  | .sin, s, t => t.sin = s.sin
  | .sout, s, t => t.sout = s.sout
  | .nonce, s, t => t.nonce = s.nonce
  | .seq, s, t => t.seq = s.seq
  | .mode, s, t => t.mode = s.mode
  | .hfclk, s, t => t.hfclk = s.hfclk
  | .refused, s, t => t.refused = s.refused
  | .par, s, t => t.par = s.par
  | .turns, s, t => t.turns = s.turns
  | .air, s, t => t.air = s.air
  | .words, s, t => t.host.words = s.host.words
  | .todo, s, t => t.host.todo = s.host.todo
  | .result, s, t => t.host.result = s.host.result
  | .pkt, s, t => t.host.pkt = s.host.pkt
  | .view, s, t => t.host.view = s.host.view
  | .inputs, s, t => t.host.inputs = s.host.inputs
  | .passes, s, t => t.host.passes = s.host.passes
  | .record, s, t => t.host.record = s.host.record
  | .rssi, s, t => t.host.rssi = s.host.rssi
  | .forwarded, s, t => t.host.forwarded = s.host.forwarded

theorem Elem.Same.refl (e : Elem) (s : State) : e.Same s s := by cases e <;> rfl

theorem Elem.Same.trans {e : Elem} {s t u : State} (h : e.Same s t) (h' : e.Same t u) : e.Same s u := by
  cases e <;> exact Eq.trans h' h

/-- From `s` to `t` no element changes but these, and the refused mark is not cleared (10_state.md R54). -/
structure Writes (es : List Elem) (s t : State) : Prop where
  same : ∀ e, e ∉ es → e.Same s t
  sticky : s.refused = true → t.refused = true

theorem Writes.refl (es : List Elem) (s : State) : Writes es s s := ⟨fun e _ => .refl e s, id⟩

theorem Writes.trans {es : List Elem} {s t u : State} (h : Writes es s t) (h' : Writes es t u) : Writes es s u :=
  ⟨fun e he => (h.same e he).trans (h'.same e he), fun hr => h'.sticky (h.sticky hr)⟩

theorem Writes.mono {es fs : List Elem} {s t : State} (h : Writes es s t) (hsub : es ⊆ fs) : Writes fs s t :=
  ⟨fun e he => h.same e fun hes => he (hsub hes), h.sticky⟩

/-- Writing first some elements and then others. -/
theorem Writes.append {es fs : List Elem} {s t u : State} (h : Writes es s t) (h' : Writes fs t u) :
    Writes (es ++ fs) s u :=
  (h.mono (List.subset_append_left es fs)).trans (h'.mono (List.subset_append_right es fs))

/-- A step that is taken only while it is enabled (log 9). -/
theorem Writes.ite {c : Prop} [Decidable c] {es : List Elem} {s t : State} (h : Writes es s t) :
    Writes es s (if c then t else s) := by
  split
  · exact h
  · exact .refl es s

/-! ### The updates -/

theorem writes_setTimer (s : State) (x : Timer) : Writes [.timer] s (s.setTimer x) where
  same e he := by cases e with
    | timer => exact absurd List.mem_cons_self he
    | _ => rfl
  sticky := id

theorem writes_setRtc (s : State) (x : Rtc) : Writes [.rtc] s (s.setRtc x) where
  same e he := by cases e with
    | rtc => exact absurd List.mem_cons_self he
    | _ => rfl
  sticky := id

theorem writes_setI2c (s : State) (x : I2c) : Writes [.i2c] s (s.setI2c x) where
  same e he := by cases e with
    | i2c => exact absurd List.mem_cons_self he
    | _ => rfl
  sticky := id

theorem writes_setRng (s : State) (x : Rng) : Writes [.rng] s (s.setRng x) where
  same e he := by cases e with
    | rng => exact absurd List.mem_cons_self he
    | _ => rfl
  sticky := id

theorem writes_setRadio (s : State) (x : Radio) : Writes [.radio] s (s.setRadio x) where
  same e he := by cases e with
    | radio => exact absurd List.mem_cons_self he
    | _ => rfl
  sticky := id

theorem writes_setBuf (s : State) (x : Memory) : Writes [.buf] s (s.setBuf x) where
  same e he := by cases e with
    | buf => exact absurd List.mem_cons_self he
    | _ => rfl
  sticky := id

theorem writes_setSin (s : State) (x : Memory) : Writes [.sin] s (s.setSin x) where
  same e he := by cases e with
    | sin => exact absurd List.mem_cons_self he
    | _ => rfl
  sticky := id

theorem writes_setSout (s : State) (x : Memory) : Writes [.sout] s (s.setSout x) where
  same e he := by cases e with
    | sout => exact absurd List.mem_cons_self he
    | _ => rfl
  sticky := id

theorem writes_setNonce (s : State) (x : Nonce) : Writes [.nonce] s (s.setNonce x) where
  same e he := by cases e with
    | nonce => exact absurd List.mem_cons_self he
    | _ => rfl
  sticky := id

theorem writes_setMode (s : State) (x : CpuMode) : Writes [.mode] s (s.setMode x) where
  same e he := by cases e with
    | mode => exact absurd List.mem_cons_self he
    | _ => rfl
  sticky := id

theorem writes_setHfclk (s : State) (x : Bool) : Writes [.hfclk] s (s.setHfclk x) where
  same e he := by cases e with
    | hfclk => exact absurd List.mem_cons_self he
    | _ => rfl
  sticky := id

theorem writes_setTurns (s : State) (x : List Turn) : Writes [.turns] s (s.setTurns x) where
  same e he := by cases e with
    | turns => exact absurd List.mem_cons_self he
    | _ => rfl
  sticky := id

theorem writes_setAir (s : State) (x : List Frame) : Writes [.air] s (s.setAir x) where
  same e he := by cases e with
    | air => exact absurd List.mem_cons_self he
    | _ => rfl
  sticky := id

theorem writes_setTasks (s : State) (x : List Task) : Writes [.todo] s (s.setTasks x) where
  same e he := by cases e with
    | todo => exact absurd List.mem_cons_self he
    | _ => rfl
  sticky := id

theorem writes_setWords (s : State) (x : List HostWord) : Writes [.words] s (s.setWords x) where
  same e he := by cases e with
    | words => exact absurd List.mem_cons_self he
    | _ => rfl
  sticky := id

theorem writes_setResult (s : State) (x : Result) : Writes [.result] s (s.setResult x) where
  same e he := by cases e with
    | result => exact absurd List.mem_cons_self he
    | _ => rfl
  sticky := id

theorem writes_refuse (s : State) (why : Misuse) : Writes [.refused, .result] s (s.refuse why) where
  same e he := by cases e with
    | refused => exact absurd List.mem_cons_self he
    | result => exact absurd (List.mem_cons_of_mem _ List.mem_cons_self) he
    | _ => rfl
  sticky _ := rfl

theorem writes_okStrings (s : State) (xs : List (List Byte)) : Writes [.pkt, .result] s (s.okStrings xs) where
  same e he := by cases e with
    | pkt => exact absurd List.mem_cons_self he
    | result => exact absurd (List.mem_cons_of_mem _ List.mem_cons_self) he
    | _ => rfl
  sticky := id

theorem writes_okView (s : State) (v : Option (Nat × Nat)) : Writes [.view, .result] s (s.okView v) where
  same e he := by cases e with
    | view => exact absurd List.mem_cons_self he
    | result => exact absurd (List.mem_cons_of_mem _ List.mem_cons_self) he
    | _ => rfl
  sticky := id

theorem writes_pushTasks (s : State) (ts : List Task) : Writes [.todo] s (s.pushTasks ts) := writes_setTasks s _

theorem writes_ok (s : State) (v : Value) : Writes [.result] s (s.ok v) := writes_setResult s _

theorem writes_raise (s : State) (e : Failure) : Writes [.result] s (s.raise e) := writes_setResult s _

theorem writes_hold (s : State) (t : Task) : Writes [.mode, .todo, .result] s (s.hold t) :=
  ((writes_setMode s _).append (writes_pushTasks _ [t])).append (writes_setResult _ _)

theorem Writes.settle {es : List Elem} {s : State} {x : Except Misuse State}
    (h : ∀ t, x = .ok t → Writes es s t) : Writes (es ++ [.refused, .result]) s (settle s x) := by
  obtain ⟨t, hok, ht⟩ | ⟨why, -, hr⟩ := settle_cases s x
  · rw [ht]; exact (h t hok).mono (List.subset_append_left _ _)
  · rw [hr]; exact (writes_refuse s why).mono (List.subset_append_right _ _)

/-- The element a peripheral's handle stands in. -/
def Periph.elem : Periph → Elem
  | .timer => .timer
  | .rtc => .rtc
  | .i2c => .i2c
  | .rng => .rng

theorem writes_setHandle (s : State) (p : Periph) (h : Handle) : Writes [p.elem] s (s.setHandle p h) := by
  cases p with
  | timer => exact writes_setTimer s _
  | rtc => exact writes_setRtc s _
  | i2c => exact writes_setI2c s _
  | rng => exact writes_setRng s _

/-- A wait writes its peripheral, the mode, its own outcome, and what its end writes (40_blocking_primitive.md R143). -/
theorem Writes.waitOn {es : List Elem} {p : Periph} {task : Task} {finish : State → State → State}
    (hfinish : ∀ s t, Writes es t (finish s t)) (s : State) :
    Writes ([p.elem, .mode, .todo, .result, .refused] ++ es) s (waitOn p task finish s) := by
  obtain ⟨-, -, h⟩ | ⟨-, -, h⟩ | ⟨-, h⟩ := waitOn_cases p task finish s
  · have hrelease := ((writes_setHandle s p _).append (writes_setMode (s.releaseHandle p) .running)).append
      (hfinish s _)
    rw [h]
    exact hrelease.mono (List.append_subset.2 ⟨by simp, List.subset_append_right _ es⟩)
  · rw [h]; exact (writes_hold s task).mono (by simp)
  · rw [h]; exact (writes_refuse s _).mono (by simp)

theorem Writes.serviceIrq {es : List Elem} {line : Bool} {handler : State → State} {s : State}
    (h : Writes es s (handler s)) : Writes es s (serviceIrq line handler s) := h.ite

/-- Every byte store is written by its own update. -/
def Store.elem : Store → Elem
  | .buf => .buf
  | .sin => .sin
  | .sout => .sout

theorem writes_memWrite (s : State) (st : Store) (a : Nat) (bs : List Byte) : Writes [Store.elem st] s (s.memWrite st a bs) := by
  cases st with
  | buf => exact writes_setBuf s _
  | sin => exact writes_setSin s _
  | sout => exact writes_setSout s _

/-! ### The operations -/

theorem writes_timerStart {ticks : BitVec 32} {s t : State} (h : timerStart ticks s = .ok t) :
    Writes [.timer, .result] s t := by
  obtain ⟨-, -, -, rfl⟩ := (timerStart_ok_iff ticks s t).1 h
  refine ⟨fun e he => ?_, id⟩
  cases e with
  | timer | result => simp at he
  | _ => rfl

theorem writes_rtcStart {compare : BitVec 32} {s t : State} (h : rtcStart compare s = .ok t) :
    Writes [.rtc, .result] s t := by
  obtain ⟨-, -, rfl⟩ := (rtcStart_ok_iff compare s t).1 h
  refine ⟨fun e he => ?_, id⟩
  cases e with
  | rtc | result => simp at he
  | _ => rfl

theorem writes_rngStart {s t : State} (h : rngStart s = .ok t) : Writes [.rng, .result] s t := by
  obtain ⟨-, rfl⟩ := (rngStart_ok_iff s t).1 h
  refine ⟨fun e he => ?_, id⟩
  cases e with
  | rng | result => simp at he
  | _ => rfl

theorem writes_rngPoll {s t : State} (h : rngPoll s = .ok t) : Writes [.rng, .result] s t := by
  obtain ⟨-, rfl⟩ := (rngPoll_ok_iff s t).1 h
  split
  · refine ⟨fun e he => ?_, id⟩
    cases e with
    | rng | result => simp at he
    | _ => rfl
  · exact (writes_setResult s _).mono (by simp)

theorem writes_i2cStart {addr : Byte} {wdata : List Byte} {rlen : Byte} {s t : State}
    (h : i2cStart addr wdata rlen s = .ok t) : Writes [.i2c, .result] s t := by
  obtain ⟨-, -, -, rfl⟩ := (i2cStart_ok_iff addr wdata rlen s t).1 h
  refine ⟨fun e he => ?_, id⟩
  cases e with
  | i2c | result => simp at he
  | _ => rfl

theorem writes_i2cEnable {s t : State} (h : i2cEnable s = .ok t) : Writes [.i2c, .result] s t := by
  obtain ⟨-, rfl⟩ := (i2cEnable_ok_iff s t).1 h
  refine ⟨fun e he => ?_, id⟩
  cases e with
  | i2c | result => simp at he
  | _ => rfl

theorem writes_i2cDisable {s t : State} (h : i2cDisable s = .ok t) : Writes [.i2c, .result] s t := by
  obtain ⟨-, rfl⟩ := (i2cDisable_ok_iff s t).1 h
  refine ⟨fun e he => ?_, id⟩
  cases e with
  | i2c | result => simp at he
  | _ => rfl

theorem writes_finishI2c (s t : State) : Writes [.i2c, .result] t (finishI2c s t) := by
  have hcleared := writes_setI2c t { t.i2c with txn := none, rdata := [], err := .noError }
  unfold finishI2c
  dsimp only
  split
  · exact hcleared.append (writes_ok _ _)
  · exact hcleared.append (writes_raise _ _)
  · exact hcleared.append (writes_raise _ _)

theorem writes_radioInit {c : RadioCfg} {s t : State} (h : radioInit c s = .ok t) : Writes [.radio, .result] s t := by
  obtain ⟨-, rfl⟩ := (radioInit_ok_iff c s t).1 h
  refine ⟨fun e he => ?_, id⟩
  cases e with
  | radio | result => simp at he
  | _ => rfl

theorem writes_radioStartTx {strings : List (List Byte)} {s t : State} (h : radioStartTx strings s = .ok t) :
    Writes [.buf, .radio, .result] s t := by
  obtain ⟨-, rfl⟩ := (radioStartTx_ok_iff_memWrite strings s t).1 h
  exact ((writes_memWrite s .buf 0 _).append (writes_setRadio _ _)).append (writes_ok _ .unit)

theorem writes_radioStartRx {s t : State} (h : radioStartRx s = .ok t) : Writes [.radio, .result] s t := by
  obtain ⟨-, -, rfl⟩ := (radioStartRx_ok_iff s t).1 h
  refine ⟨fun e he => ?_, id⟩
  cases e with
  | radio | result => simp at he
  | _ => rfl

theorem writes_radioEventRead {k : Byte} {s t : State} (h : radioEventRead k s = .ok t) : Writes [.result] s t := by
  obtain ⟨_, -, rfl⟩ := (radioEventRead_ok_iff k s t).1 h
  exact writes_setResult s _

theorem writes_hfclkStop {s t : State} (h : hfclkStop s = .ok t) : Writes [.hfclk, .result] s t := by
  obtain ⟨-, rfl⟩ := (hfclkStop_ok_iff s t).1 h
  refine ⟨fun e he => ?_, id⟩
  cases e with
  | hfclk | result => simp at he
  | _ => rfl

theorem writes_drawNonce {rest : List Task} {s t : State} (h : drawNonce rest s = .ok t) :
    Writes [.rng, .todo, .result] s t := by
  obtain ⟨-, rfl⟩ := (drawNonce_ok_iff rest s t).1 h
  refine ⟨fun e he => ?_, id⟩
  cases e with
  | rng | todo | result => simp at he
  | _ => rfl

theorem writes_encodeBegin {r : Record} {rest : List Task} {s t : State} (h : encodeBegin r rest s = .ok t) :
    Writes [.sin, .rng, .todo, .result] s t := by
  obtain ⟨-, -, hdraw⟩ := (encodeBegin_ok_iff r rest s t).1 h
  exact (writes_memWrite s .sin 0 _).append (writes_drawNonce hdraw)

theorem writes_encodePlain {r : Record} {s t : State} (h : encodePlain r s = .ok t) : Writes [.pkt, .result] s t := by
  obtain ⟨-, -, rfl⟩ := (encodePlain_ok_iff r s t).1 h
  exact writes_okStrings s _

theorem writes_interpret (ty : BitVec 15) (p : List Byte) (s : State) : Writes [.result] s (interpret ty p s) := by
  rw [interpret_eq]
  exact writes_setResult s _

theorem writes_decodePlain (ty : BitVec 15) (content : List Byte) (s : State) :
    Writes [.result] s (decodePlain ty content s) := by
  unfold decodePlain
  split
  · exact writes_interpret ty content s
  · exact writes_raise s _

/-- What `DecodeFrame` names. -/
theorem DecodeFrame.writes {s t : State} (h : DecodeFrame s t) : Writes [.sin, .sout, .nonce, .result] s t := by
  rw [h]
  exact (((writes_setSin s t.sin).append (writes_setSout _ t.sout)).append (writes_setNonce _ t.nonce)).append
    (writes_setResult _ t.host.result)

theorem writes_timerTick (s : State) : Writes [.timer] s (timerTick s) := by
  unfold timerTick
  dsimp only
  split
  · exact (writes_setTimer s _).trans (writes_setTimer _ _)
  · exact writes_setTimer s _

theorem writes_rtcTick (s : State) : Writes [.rtc] s (rtcTick s) := by
  unfold rtcTick
  dsimp only
  split
  · exact (writes_setRtc s _).trans (writes_setRtc _ _)
  · exact writes_setRtc s _

theorem writes_i2cComplete (a : Answer) (s : State) : Writes [.i2c] s (i2cComplete a s) := by
  unfold i2cComplete
  split
  · exact (writes_setI2c s _).trans (writes_setI2c _ _)
  · exact .refl _ s

theorem writes_startTask (s : State) : Writes [.radio] s (startTask s) := by
  obtain ⟨-, h⟩ | ⟨-, h⟩ := startTask_cases s
  · rw [h]; exact writes_setRadio s _
  · rw [h]; exact writes_setRadio s _

theorem writes_radioRamp (s : State) : Writes [.radio] s (radioRamp s) := by
  have hready : Writes [.radio] s (s.setEvents { s.radio.ev with ready := true }) := writes_setRadio s _
  unfold radioRamp
  dsimp only
  split
  · exact hready.trans (writes_startTask _)
  · exact hready

theorem writes_chainDisable (s : State) : Writes [.radio] s (chainDisable s) := by
  obtain ⟨-, h⟩ | ⟨-, h⟩ := chainDisable_cases s
  · rw [h]; exact writes_setRadio s _
  · rw [h]; exact .refl _ s

theorem writes_radioTxEnd (s : State) : Writes [.air, .radio] s (radioTxEnd s) :=
  (writes_setAir s _).append ((writes_setRadio _ _).trans (writes_chainDisable _))

theorem writes_rxOffer (f : Frame) (rssi : Rssi) (s : State) : Writes [.radio] s (rxOffer f rssi s) := by
  obtain ⟨-, h⟩ | ⟨-, h⟩ := rxOffer_cases f rssi s
  · rw [h]; exact writes_setRadio s _
  · rw [h]; exact writes_setRadio s _

theorem writes_rxEnd (f : Frame) (tail : List Byte) (s : State) : Writes [.buf, .radio] s (rxEnd f tail s) :=
  (writes_memWrite s .buf _ tail).append ((writes_setRadio _ _).trans (writes_chainDisable _))

theorem writes_radioRxStore {s t : State} (h : execRadioRxStore s = .next t) : Writes [.buf, .radio] s t := by
  unfold execRadioRxStore at h
  split at h
  · cases h; exact .refl _ s
  · split at h
    · cases h; exact (writes_memWrite s .buf _ _).append (writes_setRadio _ _)
    · cases h

theorem writes_radioRxEnd {tail : List Byte} {s t : State} (h : execRadioRxEnd tail s = .next t) :
    Writes [.buf, .radio] s t := by
  cases h
  split
  · exact .refl _ s
  · exact (writes_rxEnd _ tail s).ite

theorem writes_envAirDeliver {n : Nat} {body : List Byte} {crc : BitVec 24} {rssi : Rssi} {s t : State}
    (h : execEnvAirDeliver n body crc rssi s = .next t) : Writes [.air, .radio] s t := by
  cases h
  split
  · exact .refl _ s
  · exact ((writes_setAir s _).append (writes_rxOffer _ rssi _).ite).ite

theorem writes_radioRxHandler (s : State) : Writes [.radio, .mode] s (radioRxHandler s) :=
  ((writes_setRadio s _).trans (writes_setRadio _ _)).append (writes_setMode _ .running).ite

theorem writes_waitTxDone (s : State) : Writes [.todo, .result] s (waitTxDone s) := by
  unfold waitTxDone
  split
  · exact (writes_ok s _).mono (by simp)
  · exact (writes_pushTasks s _).append (writes_ok _ _)

theorem writes_waitRx (s : State) : Writes [.mode, .todo, .result] s (waitRx s) := by
  unfold waitRx
  split
  · exact writes_hold s _
  · exact ((writes_setMode s .running).append (writes_ok _ .unit)).mono (by simp)

theorem writes_blockingStart {c : BlockingCall} {s t : State} (h : blockingStart c s = .ok t) :
    Writes [.timer, .rtc, .i2c, .rng, .result] s t := by
  cases c with
  | timer ticks => exact (writes_timerStart h).mono (by simp)
  | rtc compare => exact (writes_rtcStart h).mono (by simp)
  | i2c addr wdata rlen => exact (writes_i2cStart h).mono (by simp)
  | rng => exact (writes_rngStart h).mono (by simp)

theorem writes_blockingBegin {c : BlockingCall} {s t : State} (h : blockingBegin c s = .ok t) :
    Writes [.timer, .rtc, .i2c, .rng, .result, .todo] s t := by
  unfold blockingBegin at h
  split at h
  · next u hu => cases h; exact (writes_blockingStart hu).append (writes_pushTasks u _)
  · cases h

/-! ### The table -/

/-- The elements an instruction may write. -/
def footprint : Instr → List Elem
  | .timerStart _ => [.timer, .result, .refused]
  | .timerWait => [.timer, .mode, .todo, .result, .refused]
  | .rtcStart _ => [.rtc, .result, .refused]
  | .rtcWait => [.rtc, .mode, .todo, .result, .refused]
  | .rngStart => [.rng, .result, .refused]
  | .rngWait => [.rng, .mode, .todo, .result, .refused]
  | .rngPoll => [.rng, .result, .refused]
  | .i2cEnable => [.i2c, .result, .refused]
  | .i2cDisable => [.i2c, .result, .refused]
  | .i2cStart _ _ _ => [.i2c, .result, .refused]
  | .i2cWait => [.i2c, .mode, .todo, .result, .refused]
  | .radioInitTx => [.radio, .result, .refused]
  | .radioInitRx => [.radio, .result, .refused]
  | .radioStartTx _ => [.buf, .radio, .result, .refused]
  | .radioStartRx => [.radio, .result, .refused]
  | .radioPayload => [.view, .result]
  | .radioEventRead _ => [.result, .refused]
  | .radioEventResetAll => [.radio, .result]
  | .radioDisable => [.radio, .result]
  | .radioTakeRx => [.radio, .result]
  | .codecEncodeEnc _ => [.sin, .rng, .todo, .result, .refused]
  | .codecEncodePlain _ => [.pkt, .result, .refused]
  | .codecDecode _ => [.sin, .sout, .nonce, .result]
  | .hfclkStart => [.hfclk, .result]
  | .hfclkStop => [.hfclk, .result, .refused]
  | .timerTick => [.timer]
  | .rtcTick => [.rtc]
  | .rngProduce _ => [.rng]
  | .i2cComplete _ => [.i2c]
  | .radioRamp => [.radio]
  | .radioTxEnd => [.air, .radio]
  | .radioRxOffer _ _ => [.radio]
  | .radioRxStore => [.buf, .radio]
  | .radioRxEnd _ => [.buf, .radio]
  | .radioShortStart => [.radio]
  | .radioShortDisable => [.radio]
  | .irqTimer => [.timer]
  | .irqRtc => [.rtc]
  | .irqRng => [.rng]
  | .irqI2c => [.i2c]
  | .irqRadioTx => [.radio]
  | .irqRadioRx => [.radio, .mode]
  | .envAirDeliver _ _ _ _ => [.air, .radio]
  | .envAirDrop _ => [.air]
  | .waitTxDone => [.todo, .result]
  | .blocking _ => [.timer, .rtc, .i2c, .rng, .todo, .result, .refused]
  | .drawNonce => [.rng, .todo, .result, .refused]
  | .sendEncrypted _ => [.sin, .rng, .todo, .result, .refused]
  | .waitRx => [.mode, .todo, .result]
  | .pktPlain _ _ => [.result]
  | .pktEnc _ _ => [.sin, .sout, .nonce, .result]
  | .cfgword _ _ _ _ => [.result]

/-- No instruction writes an element outside its footprint. -/
theorem exec_writes {i : Instr} {s t : State} (h : exec i s = .next t) : Writes (footprint i) s t := by
  cases i with
  | timerStart ticks => cases h; exact (Writes.settle fun _ => writes_timerStart).mono (by simp [footprint])
  | timerWait => cases h; exact (Writes.waitOn (fun _ t => writes_ok t _) s).mono (by simp [footprint, Periph.elem])
  | rtcStart compare => cases h; exact (Writes.settle fun _ => writes_rtcStart).mono (by simp [footprint])
  | rtcWait => cases h; exact (Writes.waitOn (fun _ t => writes_ok t _) s).mono (by simp [footprint, Periph.elem])
  | rngStart => cases h; exact (Writes.settle fun _ => writes_rngStart).mono (by simp [footprint])
  | rngWait => cases h; exact (Writes.waitOn (fun _ t => writes_ok t _) s).mono (by simp [footprint, Periph.elem])
  | rngPoll => cases h; exact (Writes.settle fun _ => writes_rngPoll).mono (by simp [footprint])
  | i2cEnable => cases h; exact (Writes.settle fun _ => writes_i2cEnable).mono (by simp [footprint])
  | i2cDisable => cases h; exact (Writes.settle fun _ => writes_i2cDisable).mono (by simp [footprint])
  | i2cStart addr wdata rlen => cases h; exact (Writes.settle fun _ => writes_i2cStart).mono (by simp [footprint])
  | i2cWait => cases h; exact (Writes.waitOn writes_finishI2c s).mono (by simp [footprint, Periph.elem])
  | radioInitTx => cases h; exact (Writes.settle fun _ => writes_radioInit).mono (by simp [footprint])
  | radioInitRx => cases h; exact (Writes.settle fun _ => writes_radioInit).mono (by simp [footprint])
  | radioStartTx strings => cases h; exact (Writes.settle fun _ => writes_radioStartTx).mono (by simp [footprint])
  | radioStartRx => cases h; exact (Writes.settle fun _ => writes_radioStartRx).mono (by simp [footprint])
  | radioPayload => cases h; exact writes_okView s _
  | radioEventRead k => cases h; exact (Writes.settle fun _ => writes_radioEventRead).mono (by simp [footprint])
  | radioEventResetAll => cases h; exact (writes_setRadio s _).append (writes_ok _ _)
  | radioDisable => cases h; exact ((writes_setRadio s _).trans (writes_setRadio _ _)).append (writes_ok _ _)
  | radioTakeRx => cases h; exact (writes_setRadio s _).append (writes_ok _ _)
  | codecEncodeEnc r => cases h; exact (Writes.settle fun _ => writes_encodeBegin).mono (by simp [footprint])
  | codecEncodePlain r => cases h; exact (Writes.settle fun _ => writes_encodePlain).mono (by simp [footprint])
  | codecDecode v => cases h; exact (decodeFrame_decodePayload _ _ s).writes
  | hfclkStart => cases h; exact (writes_setHfclk s true).append (writes_ok _ _)
  | hfclkStop => cases h; exact (Writes.settle fun _ => writes_hfclkStop).mono (by simp [footprint])
  | timerTick => cases h; exact (writes_timerTick s).ite
  | rtcTick => cases h; exact (writes_rtcTick s).ite
  | rngProduce v => cases h; exact ((writes_setRng s _).trans (writes_setRng _ _)).ite
  | i2cComplete a => cases h; exact (writes_i2cComplete a s).ite
  | radioRamp => cases h; exact (writes_radioRamp s).ite
  | radioTxEnd => cases h; exact (writes_radioTxEnd s).ite
  | radioRxOffer f rssi => cases h; exact (writes_rxOffer f rssi s).ite
  | radioRxStore => exact writes_radioRxStore h
  | radioRxEnd tail => exact writes_radioRxEnd h
  | radioShortStart => cases h; exact (writes_startTask s).ite
  | radioShortDisable => cases h; exact (writes_chainDisable s).ite
  | irqTimer => cases h; exact (writes_setHandle s .timer _).serviceIrq
  | irqRtc => cases h; exact (writes_setHandle s .rtc _).serviceIrq
  | irqRng => cases h; exact (writes_setHandle s .rng _).serviceIrq
  | irqI2c => cases h; exact (writes_setHandle s .i2c _).serviceIrq
  | irqRadioTx => cases h; exact (writes_setRadio s _).serviceIrq
  | irqRadioRx => cases h; exact (writes_radioRxHandler s).serviceIrq
  | envAirDeliver n body crc rssi => exact writes_envAirDeliver h
  | envAirDrop n => cases h; exact writes_setAir s _
  | waitTxDone => cases h; exact writes_waitTxDone s
  | blocking c => cases h; exact (Writes.settle fun _ => writes_blockingBegin).mono (by simp [footprint])
  | drawNonce => cases h; exact (Writes.settle fun _ => writes_drawNonce).mono (by simp [footprint])
  | sendEncrypted r => cases h; exact (Writes.settle fun _ => writes_encodeBegin).mono (by simp [footprint])
  | waitRx => cases h; exact writes_waitRx s
  | pktPlain ty content => cases h; exact writes_decodePlain ty content s
  | pktEnc ty content => cases h; exact (decodeFrame_decodeEnc _ ty content s).writes
  | cfgword board major minor patch => cases h; exact writes_ok s _

/-! ### R71: who writes the byte stores -/

theorem mem_footprint_buf {i : Instr} (h : .buf ∈ footprint i) :
    (∃ x, i = .radioStartTx x) ∨ i = .radioRxStore ∨ ∃ x, i = .radioRxEnd x := by
  cases i with
  | radioStartTx x => exact .inl ⟨x, rfl⟩
  | radioRxStore => exact .inr (.inl rfl)
  | radioRxEnd x => exact .inr (.inr ⟨x, rfl⟩)
  | _ => simp [footprint] at h

theorem mem_footprint_sin {i : Instr} (h : .sin ∈ footprint i) :
    (∃ r, i = .codecEncodeEnc r) ∨ (∃ r, i = .sendEncrypted r) ∨ (∃ v, i = .codecDecode v) ∨ ∃ ty c, i = .pktEnc ty c := by
  cases i with
  | codecEncodeEnc r => exact .inl ⟨r, rfl⟩
  | sendEncrypted r => exact .inr (.inl ⟨r, rfl⟩)
  | codecDecode v => exact .inr (.inr (.inl ⟨v, rfl⟩))
  | pktEnc ty c => exact .inr (.inr (.inr ⟨ty, c, rfl⟩))
  | _ => simp [footprint] at h

theorem mem_footprint_sout {i : Instr} (h : .sout ∈ footprint i) :
    (∃ v, i = .codecDecode v) ∨ ∃ ty c, i = .pktEnc ty c := by
  cases i with
  | codecDecode v => exact .inl ⟨v, rfl⟩
  | pktEnc ty c => exact .inr ⟨ty, c, rfl⟩
  | _ => simp [footprint] at h

/-- An element is as it was, or it stands in the footprint. -/
theorem exec_same_or_mem {i : Instr} {s t : State} (h : exec i s = .next t) (e : Elem) :
    e.Same s t ∨ e ∈ footprint i := by
  by_cases he : e ∈ footprint i
  · exact .inr he
  · exact .inl ((exec_writes h).same e he)

/-- Settles O16: the instructions with a store in their footprint are the ones named. -/
theorem onlyTheirOperationsWriteTheStores : Obligations.OnlyTheirOperationsWriteTheStores :=
  fun _ _ _ h =>
    ⟨(exec_same_or_mem h .buf).imp_right mem_footprint_buf, (exec_same_or_mem h .sin).imp_right mem_footprint_sin,
      (exec_same_or_mem h .sout).imp_right mem_footprint_sout⟩

/-! ### R50: a Halted processor -/

/-- What an agent's step may write: its peripheral, `BUF`, the air, and, by the receive handler, the mode. -/
def agentElems : List Elem := [.timer, .rtc, .i2c, .rng, .radio, .buf, .air, .mode]

theorem footprint_of_agent {i : Instr} {a : Agent} (hi : i.agent = some a) (ha : a ≠ .host) :
    footprint i ⊆ agentElems := by
  cases i with
  | timerTick | rtcTick | rngProduce | i2cComplete | radioRamp | radioTxEnd | radioRxOffer | radioRxStore | radioRxEnd
  | irqTimer | irqRtc | irqRng | irqI2c | irqRadioTx | irqRadioRx | envAirDeliver | envAirDrop =>
    simp [footprint, agentElems]
  | radioShortStart | radioShortDisable => cases hi
  | _ => cases hi; exact absurd rfl ha

/-- An agent's step writes nothing outside `agentElems`. -/
theorem exec_agent_writes {i : Instr} {a : Agent} {s t : State} (hi : i.agent = some a) (ha : a ≠ .host)
    (h : exec i s = .next t) : Writes agentElems s t := (exec_writes h).mono (footprint_of_agent hi ha)

/-- The receive handler wakes a sleeping processor and no other (44_radio.md R247). -/
theorem mode_radioRxHandler {s : State} (h : s.mode ≠ .sleeping) : (radioRxHandler s).mode = s.mode := by
  unfold radioRxHandler wake
  rw [if_neg (by exact h)]
  rfl

/-- No agent's step takes the processor out of Halted (10_state.md R50). -/
theorem exec_agent_keepsHalted {i : Instr} {a : Agent} {s t : State} (hi : i.agent = some a) (ha : a ≠ .host)
    (hs : s.mode = .halted) (h : exec i s = .next t) : t.mode = .halted := by
  cases i with
  | irqRadioRx =>
    cases h
    obtain ⟨-, he⟩ | ⟨-, he⟩ := serviceIrq_cases (radioLine s && s.radio.cfg == .rxCfg) radioRxHandler s
    · rw [he, mode_radioRxHandler (by simp [hs]), hs]
    · rw [he, hs]
  | timerTick | rtcTick | rngProduce | i2cComplete | radioRamp | radioTxEnd | radioRxOffer | radioRxStore | radioRxEnd
  | irqTimer | irqRtc | irqRng | irqI2c | irqRadioTx | envAirDeliver | envAirDrop =>
    exact Eq.trans ((exec_writes h).same .mode (by simp [footprint])) hs
  | radioShortStart | radioShortDisable => cases hi
  | _ => cases hi; exact absurd rfl ha

/-- The fields of the host's side. -/
def hostElems : List Elem := [.words, .todo, .result, .pkt, .view, .inputs, .passes, .record, .rssi, .forwarded]

/-- Where no field of the host's side is written, it stays as a whole. -/
theorem Writes.host_eq {es : List Elem} {s t : State} (h : Writes es s t) (hes : ∀ e ∈ hostElems, e ∉ es) :
    t.host = s.host := by
  have same (e : Elem) (he : e ∈ hostElems) : e.Same s t := h.same e (hes e he)
  exact (HostSide.mk.injEq ..).mpr
    ⟨same .words (by decide), same .todo (by decide), same .result (by decide), same .pkt (by decide),
      same .view (by decide), same .inputs (by decide), same .passes (by decide), same .record (by decide),
      same .rssi (by decide), same .forwarded (by decide)⟩

/-- What stays of a Halted processor. -/
def HaltedAs (s t : State) : Prop :=
  t.mode = .halted ∧ t.host = s.host ∧ t.seq = s.seq ∧ t.hfclk = s.hfclk ∧ t.refused = s.refused

theorem exec_agent_haltedAs {i : Instr} {a : Agent} {s t : State} (hi : i.agent = some a) (ha : a ≠ .host)
    (hs : s.mode = .halted) (h : exec i s = .next t) : HaltedAs s t := by
  have hw := exec_agent_writes hi ha h
  exact ⟨exec_agent_keepsHalted hi ha hs h,
    hw.host_eq (by decide), hw.same .seq (by decide), hw.same .hfclk (by decide), hw.same .refused (by decide)⟩

theorem step_haltedAs {s t : State} (hs : s.mode = .halted) (h : step s = .next t) : HaltedAs s t := by
  obtain ⟨-, he⟩ | ⟨ts, -, he⟩ | ⟨i, ts, -, he⟩ := step_cases s
  · cases he.symm.trans h; exact ⟨hs, rfl, rfl, rfl, rfl⟩
  · rw [he, hostTurn, if_pos (show (s.setTurns ts).mode = .halted from hs)] at h
    cases h; exact ⟨hs, rfl, rfl, rfl, rfl⟩
  · obtain ⟨⟨a, hi, ha⟩, he'⟩ | ⟨-, he'⟩ := agentTurn_cases i (s.setTurns ts)
    · exact exec_agent_haltedAs (s := s.setTurns ts) hi ha hs (he'.symm.trans (he.symm.trans h))
    · cases he'.symm.trans (he.symm.trans h)

/-- Settles O10: every step of a Halted processor keeps what `HaltedAs` names, and so does every run. -/
theorem haltedHostTakesNoStep : Obligations.HaltedHostTakesNoStep := by
  intro k s t hs hrun
  refine run_keeps (P := HaltedAs s) (fun u v hu hstep => ?_) k s t ⟨hs, rfl, rfl, rfl, rfl⟩ hrun
  obtain ⟨hmode, hhost, hseq, hclk, hrefused⟩ := hu
  obtain ⟨hmode', hhost', hseq', hclk', hrefused'⟩ := step_haltedAs hmode hstep
  exact ⟨hmode', hhost'.trans hhost, hseq'.trans hseq, hclk'.trans hclk, hrefused'.trans hrefused⟩

/-! ### What the host's tasks write -/

/-- What any operation may write: everything but the parameters, the sequence index, the agenda and the host program's
own variables. -/
def operationElems : List Elem :=
  [.timer, .rtc, .i2c, .rng, .radio, .buf, .sin, .sout, .nonce, .mode, .hfclk, .refused, .air, .todo, .result, .pkt,
    .view]

theorem footprint_subset (i : Instr) : footprint i ⊆ operationElems := by
  cases i <;> simp [footprint, operationElems]

theorem exec_writes_operation {i : Instr} {s t : State} (h : exec i s = .next t) : Writes operationElems s t :=
  (exec_writes h).mono (footprint_subset i)

/-- What most of the host's tasks may write: an operation's elements, a pass's inputs and a reception's signal strength. -/
def taskElems : List Elem := operationElems ++ [.inputs, .passes, .rssi]

/-- What a host's task may write: an operation's elements; assembling the record and the sequence index; the gateway's
forwarding its stream; taking a pass's inputs and a reception the host program's variables (46_host_sequences.md). -/
def taskFootprint : Task → List Elem
  | .assemble _ _ _ => [.seq, .record, .result]
  | .gatewayForward => [.forwarded]
  | _ => taskElems

theorem writes_haltOnFailure (s : State) : Writes [.mode] s (haltOnFailure s) := by
  unfold haltOnFailure
  split
  · exact (writes_setMode s _).ite
  · exact .refl _ s

theorem writes_sensorReport (f : Option SensorFault) (s : State) : Writes [.result] s (sensorReport f s) := by
  unfold sensorReport
  split
  · exact writes_ok s _
  · exact writes_raise s _
  · exact writes_raise s _

theorem writes_encodeFinish (ae : AE) (r : Record) (s : State) : Writes [.sout, .pkt, .result] s (encodeFinish ae r s) :=
  (writes_memWrite s .sout 0 _).append (writes_okStrings _ _)

theorem writes_finishNonceByte (i : Fin 8) (s t : State) : Writes [.nonce, .result] t (finishNonceByte i s t) :=
  (writes_setNonce t _).append (writes_ok _ _)

theorem writes_assemble (ty : BitVec 15) (x : BitVec 16) (f : List Byte) (s : State) :
    Writes [.seq, .record, .result] s (assemble ty x f s) := by
  refine ⟨fun e he => ?_, id⟩
  cases e with
  | seq | record | result => simp at he
  | _ => rfl

theorem writes_encodeRecord {s t : State} (h : encodeRecord s = .next t) : Writes operationElems s t := by
  unfold encodeRecord at h
  split at h
  · cases h; exact (writes_refuse s _).mono (by simp [operationElems])
  · split at h
    · exact exec_writes_operation h
    · exact exec_writes_operation h

theorem writes_nodeSample (s : State) : Writes [.inputs, .passes, .todo] s (nodeSample s) := by
  unfold nodeSample nextInputs
  refine ⟨fun e he => ?_, id⟩
  cases e with
  | inputs | passes | todo => simp at he
  | _ => dsimp only; split <;> rfl

theorem writes_gatewayCheck (s : State) : Writes [.rssi, .todo] s (gatewayCheck s) := by
  unfold gatewayCheck
  split
  · refine ⟨fun e he => ?_, id⟩
    cases e with
    | rssi | todo => simp at he
    | _ => rfl
  · exact .refl _ s

theorem writes_gatewayView (s : State) : Writes [.todo] s (gatewayView s) := by
  unfold gatewayView
  split
  · exact writes_pushTasks s _
  · exact .refl _ s

theorem writes_gatewayForward (s : State) : Writes [.forwarded] s (gatewayForward s) := by
  unfold gatewayForward
  split
  · refine ⟨fun e he => ?_, id⟩
    cases e with
    | forwarded => simp at he
    | _ => rfl
  · exact .refl _ s

theorem writes_rejectWord (e : DecodeError) (s : State) : Writes [.refused, .result] s (rejectWord e s) := by
  obtain h | ⟨why, h⟩ := rejectWord_cases e s
  · rw [h]; exact (writes_raise s _).mono (by simp)
  · rw [h]; exact writes_refuse s why

theorem runTask_writes {x : Task} {s t : State} (h : runTask x s = .next t) : Writes (taskFootprint x) s t := by
  have op {i : Instr} (h : exec i s = .next t) : Writes taskElems s t :=
    (exec_writes_operation h).mono (List.subset_append_left _ _)
  have own {es : List Elem} {u : State} (h : Writes es s u) (hes : es ⊆ taskElems) : Writes taskElems s u := h.mono hes
  cases x with
  | op i => exact op h
  | nonceStart => cases h; exact own (Writes.settle fun _ => writes_rngStart) (by decide)
  | nonceTake i => cases h; exact own (Writes.waitOn (writes_finishNonceByte i) s) (by decide)
  | encodeFinish r => cases h; exact own (writes_encodeFinish _ r s) (by decide)
  | bootRead => exact op (i := decodeConfig s.par.cfgword) h
  | sendPacket => exact op (i := .radioStartTx s.host.pkt) h
  | haltOnFailure => cases h; exact own (writes_haltOnFailure s) (by decide)
  | sensorReport f => cases h; exact own (writes_sensorReport f s) (by decide)
  | battery v => cases h; exact own (writes_setTasks s _).ite (by decide)
  | assemble ty x f => cases h; exact writes_assemble ty x f s
  | encodeRecord => exact (writes_encodeRecord h).mono (List.subset_append_left _ _)
  | nodeLoop => cases h; exact own (writes_pushTasks s _) (by decide)
  | nodeSample => cases h; exact own (writes_nodeSample s) (by decide)
  | lowBattery => cases h; exact own (writes_pushTasks s _) (by decide)
  | gatewayCheck => cases h; exact own (writes_gatewayCheck s) (by decide)
  | gatewayView => cases h; exact own (writes_gatewayView s) (by decide)
  | gatewayForward => cases h; exact writes_gatewayForward s
  | gatewayLoop => cases h; exact own (writes_pushTasks s _) (by decide)

/-! ### What a step writes -/

theorem issue_writes {s t : State} (h : issue s = .next t) : Writes (.words :: operationElems) s t := by
  have hwords (ws : List HostWord) := writes_setWords s ws
  obtain ⟨-, he⟩ | ⟨w, ws, i, rest, -, -, he⟩ | ⟨w, ws, e, -, -, he⟩ := issue_cases s
  · cases he.symm.trans h; exact .refl _ s
  · exact (hwords _).append (exec_writes_operation (he.symm.trans h))
  · cases he.symm.trans h
    exact ((hwords ws).append (writes_rejectWord e _)).mono (by decide)

/-- Everything a step can write: what the host's task under way may, or an operation's elements, and besides the agenda
and the host's words and tasks. -/
theorem step_writes {s t : State} (h : step s = .next t) :
    (∃ ts x rest, s.turns = .host :: ts ∧ s.host.todo = x :: rest ∧ runTask x ((s.setTurns ts).setTasks rest) = .next t) ∨
      Writes (.turns :: .words :: operationElems) s t := by
  obtain ⟨-, he⟩ | ⟨ts, hturns, he⟩ | ⟨i, ts, -, he⟩ := step_cases s
  · cases he.symm.trans h; exact .inr (.refl _ s)
  · have hts := writes_setTurns s ts
    obtain ⟨-, he'⟩ | ⟨-, x, rest, htodo, he'⟩ | ⟨-, -, he'⟩ := hostTurn_cases (s.setTurns ts)
    · cases he'.symm.trans (he.symm.trans h)
      exact .inr (hts.mono (by simp))
    · exact .inl ⟨ts, x, rest, hturns, htodo, he'.symm.trans (he.symm.trans h)⟩
    · exact .inr (hts.append (issue_writes (he'.symm.trans (he.symm.trans h))))
  · obtain ⟨-, he'⟩ | ⟨-, he'⟩ := agentTurn_cases i (s.setTurns ts)
    · exact .inr (((writes_setTurns s ts).append (exec_writes_operation (he'.symm.trans (he.symm.trans h)))).mono
        (by decide))
    · cases he'.symm.trans (he.symm.trans h)

/-- The step of a task writes the agenda, the tasks and what the task may. -/
theorem writes_of_runTask {x : Task} {rest : List Task} {ts : List Turn} {s t : State}
    (h : runTask x ((s.setTurns ts).setTasks rest) = .next t) :
    Writes ([.turns] ++ [.todo] ++ taskFootprint x) s t :=
  ((writes_setTurns s ts).append (writes_setTasks _ rest)).append (runTask_writes h)

theorem par_not_mem_taskFootprint (x : Task) : .par ∉ taskFootprint x := by
  cases x <;> simp [taskFootprint, taskElems, operationElems]

/-- Settles O13: no task and no operation has the parameters in its footprint, and no write clears the refused mark. -/
theorem parametersAndRefusalMarkPersist : Obligations.ParametersAndRefusalMarkPersist := by
  refine ⟨rfl, fun s t h => ?_⟩
  obtain ⟨ts, x, rest, -, -, hrun⟩ | hw := step_writes h
  · have hw := writes_of_runTask hrun
    exact ⟨hw.same .par (by simp [par_not_mem_taskFootprint x]), hw.sticky⟩
  · exact ⟨hw.same .par (by decide), hw.sticky⟩

/-- Only assembling has the sequence index in its footprint (46_host_sequences.md R318). -/
theorem mem_taskFootprint_seq {x : Task} (h : .seq ∈ taskFootprint x) : ∃ ty i f, x = .assemble ty i f := by
  cases x with
  | assemble ty i f => exact ⟨ty, i, f, rfl⟩
  | _ => simp [taskFootprint, taskElems, operationElems] at h

/-- Settles O15: the index is in the footprint of assembling alone, which increments it. -/
theorem sequenceIndexMovesOnlyByAssembling : Obligations.SequenceIndexMovesOnlyByAssembling := by
  intro s t h
  obtain ⟨ts, x, rest, hturns, htodo, hrun⟩ | hw := step_writes h
  · by_cases hx : .seq ∈ taskFootprint x
    · obtain ⟨ty, i, f, rfl⟩ := mem_taskFootprint_seq hx
      cases hrun
      exact .inr ⟨ts, ty, i, f, rest, hturns, htodo, rfl⟩
    · exact .inl ((writes_of_runTask hrun).same .seq (by simp [hx]))
  · exact .inl (hw.same .seq (by decide))

/-- Only the gateway's forwarding has the stream in its footprint (45_codec.md R288). -/
theorem mem_taskFootprint_forwarded {x : Task} (h : .forwarded ∈ taskFootprint x) : x = .gatewayForward := by
  cases x with
  | gatewayForward => rfl
  | _ => simp [taskFootprint, taskElems, operationElems] at h

/-- Forwarding adds one element for a decoded record, and nothing otherwise (46_host_sequences.md R325, R328). -/
theorem forwarded_gatewayForward (s : State) :
    (gatewayForward s).host.forwarded = s.host.forwarded ∨
      ∃ r, s.host.result = .ok (.record r) ∧
        (gatewayForward s).host.forwarded = s.host.forwarded ++ [forwardedOf r s.host.rssi] := by
  unfold gatewayForward
  split
  · next r hr => exact .inr ⟨r, hr, rfl⟩
  · exact .inl rfl

/-- A step that forwards anything is the gateway's forwarding of a decoded record. -/
theorem step_forwarded {s t : State} (h : step s = .next t) :
    t.host.forwarded = s.host.forwarded ∨
      ∃ ts rest r x, s.turns = .host :: ts ∧ s.host.todo = .gatewayForward :: rest ∧
        s.host.result = .ok (.record r) ∧ t.host.forwarded = s.host.forwarded ++ [x] := by
  obtain ⟨ts, x, rest, hturns, htodo, hrun⟩ | hw := step_writes h
  · by_cases hx : .forwarded ∈ taskFootprint x
    · cases mem_taskFootprint_forwarded hx
      cases hrun
      exact (forwarded_gatewayForward _).imp_right fun ⟨r, hr, hf⟩ => ⟨ts, rest, r, _, hturns, htodo, hr, hf⟩
    · exact .inl ((writes_of_runTask hrun).same .forwarded (by simp [hx]))
  · exact .inl (hw.same .forwarded (by decide))

end Sys2Proof.Machine
end

section
/-! ## Proofs: the radio's state, the interrupt handlers and the key (44_radio.md section 7, 60_exceptions.md, 20_memory.md)

Three statements about every instruction. The radio's changes are looked for among the instructions with the radio in
their footprint; the handlers commute because each works on its own element of the state; and an instruction's outcome
commutes with a change of the key, because nothing it reads depends on the key. -/

namespace Sys2Proof.Machine

/-! ### R256: the changes of the radio's state -/

/-- The state stays, or the change is one of the rows `Q`. -/
def Moves (Q : State → Prop) (s t : State) : Prop := t.radio.state = s.radio.state ∨ Q t

theorem Moves.settle {Q : State → Prop} {s : State} {x : Except Misuse State} (h : ∀ t, x = .ok t → Moves Q s t) :
    Moves Q s (settle s x) := by
  obtain ⟨t, hok, ht⟩ | ⟨why, -, hr⟩ := settle_cases s x
  · rw [ht]; exact h t hok
  · rw [hr]; exact .inl rfl

/-- A step that is taken only while it is enabled (log 9). -/
theorem Moves.ite {c : Prop} [Decidable c] {Q : State → Prop} {s t : State} (h : c → Moves Q s t) :
    Moves Q s (if c then t else s) := by
  split
  · next hc => exact h hc
  · exact .inl rfl

theorem radioState_radioInit {c : RadioCfg} {s t : State} (h : radioInit c s = .ok t) :
    t.radio.state = s.radio.state := by
  obtain ⟨-, rfl⟩ := (radioInit_ok_iff c s t).1 h
  rfl

theorem radioState_rxOffer (f : Frame) (rssi : Rssi) (s : State) : (rxOffer f rssi s).radio.state = s.radio.state := by
  obtain ⟨-, h⟩ | ⟨-, h⟩ := rxOffer_cases f rssi s
  · rw [h]
  · rw [h]

theorem radioState_receiveFrame (f : Frame) (rssi : Rssi) (s : State) :
    (receiveFrame f rssi s).radio.state = s.radio.state := by
  unfold receiveFrame
  split
  · exact radioState_rxOffer f rssi s
  · rfl

theorem radioState_envAirDeliver {n : Nat} {body : List Byte} {crc : BitVec 24} {rssi : Rssi} {s t : State}
    (h : execEnvAirDeliver n body crc rssi s = .next t) : t.radio.state = s.radio.state := by
  cases h
  split
  · rfl
  · split
    · exact radioState_receiveFrame _ _ _
    · rfl

theorem radioState_radioRxStore {s t : State} (h : execRadioRxStore s = .next t) : t.radio.state = s.radio.state := by
  unfold execRadioRxStore at h
  split at h
  · cases h; rfl
  · split at h
    · cases h; rfl
    · cases h

/-- The end's shortcut leaves the radio's state or disables the radio. -/
theorem radioState_chainDisable (s : State) :
    (chainDisable s).radio.state = s.radio.state ∨ (chainDisable s).radio.state = .disabled := by
  obtain ⟨-, h⟩ | ⟨-, h⟩ := chainDisable_cases s
  · rw [h]; exact .inr rfl
  · rw [h]; exact .inl rfl

/-- The start task takes the radio to the state of its direction. -/
theorem radioState_startTask (s : State) :
    (s.radio.dir = .tx ∧ (startTask s).radio.state = .tx) ∨ (s.radio.dir = .rx ∧ (startTask s).radio.state = .rx) := by
  obtain ⟨hd, h⟩ | ⟨hd, h⟩ := startTask_cases s
  · exact .inl ⟨hd, by rw [h]⟩
  · exact .inr ⟨hd, by rw [h]⟩

theorem radioState_radioRamp (s : State) :
    (radioRamp s).radio.state = s.radio.state ∨
      (s.radio.dir = .tx ∧ (radioRamp s).radio.state = .tx) ∨ (s.radio.dir = .rx ∧ (radioRamp s).radio.state = .rx) := by
  unfold radioRamp
  dsimp only
  split
  · exact .inr (radioState_startTask (s.setEvents { s.radio.ev with ready := true }))
  · exact .inl rfl

/-- The rows of the table, and the receive handler's re-arm (44_radio.md R256, R247). -/
def RadioRow (i : Instr) (s t : State) : Prop :=
  ((∃ x, i = .radioStartTx x) ∧ s.radio.state = .disabled ∧ s.radio.cfg = .txCfg ∧ t.radio.state = .ready ∧
    t.radio.dir = .tx) ∨
  (i = .radioStartRx ∧ s.radio.state = .disabled ∧ s.radio.cfg = .rxCfg ∧ t.radio.state = .ready ∧
    t.radio.dir = .rx) ∨
  (i = .irqRadioRx ∧ s.radio.ev.disabled = true ∧ s.radio.inten = true ∧ s.radio.cfg = .rxCfg ∧
    t.radio.state = .ready ∧ t.radio.dir = .rx) ∨
  ((i = .radioRamp ∨ i = .radioShortStart) ∧ s.radio.state = .ready ∧ s.hfclk = true ∧
    ((s.radio.dir = .tx ∧ t.radio.state = .tx) ∨ (s.radio.dir = .rx ∧ t.radio.state = .rx))) ∨
  ((i = .radioTxEnd ∨ i = .radioShortDisable) ∧ s.radio.state = .tx ∧ t.radio.state = .disabled) ∨
  (((∃ x, i = .radioRxEnd x) ∨ i = .radioShortDisable) ∧ s.radio.state = .rx ∧ t.radio.state = .disabled) ∨
  (i = .radioDisable ∧ t.radio.state = .disabled)

theorem moves_radioStartTx {x : List (List Byte)} {s t : State} (h : radioStartTx x s = .ok t) :
    Moves (RadioRow (.radioStartTx x) s) s t := by
  obtain ⟨hcfg, hstate, -, rfl⟩ := (radioStartTx_ok_iff x s t).1 h
  exact .inr (.inl ⟨⟨x, rfl⟩, hstate, hcfg, rfl, rfl⟩)

theorem moves_radioStartRx {s t : State} (h : radioStartRx s = .ok t) : Moves (RadioRow .radioStartRx s) s t := by
  obtain ⟨hcfg, hstate, rfl⟩ := (radioStartRx_ok_iff s t).1 h
  exact .inr (.inr (.inl ⟨rfl, hstate, hcfg, rfl, rfl⟩))

theorem moves_irqRadioRx {s : State} (hline : (radioLine s && s.radio.cfg == .rxCfg) = true) :
    Moves (RadioRow .irqRadioRx s) s (radioRxHandler s) := by
  simp only [radioLine, Bool.and_eq_true, beq_iff_eq] at hline
  obtain ⟨⟨hev, hinten⟩, hcfg⟩ := hline
  have hradio : (radioRxHandler s).radio.state = .ready ∧ (radioRxHandler s).radio.dir = .rx := by
    unfold radioRxHandler wake
    split
    · exact ⟨rfl, rfl⟩
    · exact ⟨rfl, rfl⟩
  exact .inr (.inr (.inr (.inl ⟨rfl, hev, hinten, hcfg, hradio⟩)))

theorem moves_of_start {i : Instr} {s t : State} (hi : i = .radioRamp ∨ i = .radioShortStart)
    (hready : s.radio.state = .ready) (hclk : s.hfclk = true)
    (h : (s.radio.dir = .tx ∧ t.radio.state = .tx) ∨ (s.radio.dir = .rx ∧ t.radio.state = .rx)) :
    Moves (RadioRow i s) s t :=
  .inr (.inr (.inr (.inr (.inl ⟨hi, hready, hclk, h⟩))))

theorem moves_radioRamp {s : State} (he : rampEnabled s = true) : Moves (RadioRow .radioRamp s) s (radioRamp s) := by
  obtain ⟨hready, hclk⟩ := (rampEnabled_iff s).1 he
  obtain h | h := radioState_radioRamp s
  · exact .inl h
  · exact moves_of_start (.inl rfl) hready hclk h

theorem moves_radioTxEnd {s : State} (hs : s.radio.state = .tx) : Moves (RadioRow .radioTxEnd s) s (radioTxEnd s) :=
  (radioState_chainDisable _).imp id fun h => .inr (.inr (.inr (.inr (.inl ⟨.inl rfl, hs, h⟩))))

theorem moves_radioRxEnd {tail : List Byte} {s t : State} (h : execRadioRxEnd tail s = .next t) :
    Moves (RadioRow (.radioRxEnd tail) s) s t := by
  cases h
  split
  · exact .inl rfl
  · next f hf =>
    have hs : s.radio.state = .rx := ((endPending_eq_some_iff s f).1 hf).1
    refine .ite fun _ => (radioState_chainDisable _).imp id fun h => ?_
    exact .inr (.inr (.inr (.inr (.inr (.inl ⟨.inl ⟨tail, rfl⟩, hs, h⟩)))))

theorem moves_radioShortDisable {s : State} (ha : onAir s = true) :
    Moves (RadioRow .radioShortDisable s) s (chainDisable s) := by
  simp only [onAir, Bool.or_eq_true, beq_iff_eq] at ha
  refine (radioState_chainDisable s).imp id fun h => ?_
  obtain hs | hs := ha
  · exact .inr (.inr (.inr (.inr (.inl ⟨.inr rfl, hs, h⟩))))
  · exact .inr (.inr (.inr (.inr (.inr (.inl ⟨.inr rfl, hs, h⟩)))))

/-- Settles O18: an instruction without the radio in its footprint leaves it; the others are looked at one by one. -/
theorem radioStateChangesOnlyByItsTable : Obligations.RadioStateChangesOnlyByItsTable := by
  intro i s t h
  change Moves (RadioRow i s) s t
  cases i with
  | radioInitTx => cases h; exact .settle fun _ ht => .inl (radioState_radioInit ht)
  | radioInitRx => cases h; exact .settle fun _ ht => .inl (radioState_radioInit ht)
  | radioStartTx x => cases h; exact .settle fun _ => moves_radioStartTx
  | radioStartRx => cases h; exact .settle fun _ => moves_radioStartRx
  | radioEventResetAll => cases h; exact .inl rfl
  | radioDisable => cases h; exact .inr (.inr (.inr (.inr (.inr (.inr (.inr ⟨rfl, rfl⟩))))))
  | radioTakeRx => cases h; exact .inl rfl
  | radioRamp => cases h; exact .ite moves_radioRamp
  | radioTxEnd => cases h; exact .ite moves_radioTxEnd
  | radioRxOffer f rssi => cases h; exact .ite fun _ => .inl (radioState_rxOffer f rssi s)
  | radioRxStore => exact .inl (radioState_radioRxStore h)
  | radioRxEnd tail => exact moves_radioRxEnd h
  | radioShortStart =>
    cases h
    refine .ite fun he => ?_
    simp only [Bool.and_eq_true, rampEnabled_iff] at he
    obtain ⟨⟨⟨hready, hclk⟩, -⟩, -⟩ := he
    exact moves_of_start (.inr rfl) hready hclk (radioState_startTask s)
  | radioShortDisable => cases h; exact .ite fun he => moves_radioShortDisable (Bool.and_eq_true_iff.1 he).1
  | irqRadioTx => cases h; exact .ite fun _ => .inl rfl
  | irqRadioRx => cases h; exact .ite moves_irqRadioRx
  | envAirDeliver n body crc rssi => exact .inl (radioState_envAirDeliver h)
  | _ => exact .inl (congrArg Radio.state ((exec_writes h).same .radio (by simp [footprint])))

/-! ### R348: the handlers commute -/

/-- The handler of `a` alone does something: `g`. -/
def onlyFor {α : Type} (a : Instr) (g : α → α) (i : Instr) (x : α) : α := if i = a then g x else x

/-- Two handlers, of which at most one is that of `a` unless they are the same, commute where only `a` acts. -/
theorem onlyFor_comm {α : Type} (a : Instr) (g : α → α) (i j : Instr) (x : α) :
    onlyFor a g i (onlyFor a g j x) = onlyFor a g j (onlyFor a g i x) := by
  unfold onlyFor
  by_cases hi : i = a <;> by_cases hj : j = a <;> simp [hi, hj]

/-- The handle after the generic handler's interrupt (40_blocking_primitive.md R145). -/
def serviced (h : Handle) : Handle := if h.done && h.inten then { h with inten := false } else h

/-- The radio and the mode after the transmit handler's interrupt (44_radio.md R232). -/
def txServiced (x : Radio × CpuMode) : Radio × CpuMode :=
  if x.1.ev.disabled && x.1.inten && x.1.cfg == .txCfg then ({ x.1 with inten := false }, x.2) else x

/-- The radio and the mode after the receive handler's interrupt (44_radio.md R247). -/
def rxServiced (x : Radio × CpuMode) : Radio × CpuMode :=
  if x.1.ev.disabled && x.1.inten && x.1.cfg == .rxCfg then
    ({ x.1 with
        rxLatch := x.1.ev.latch, ev := Events.clear, pktptr := .toBuf, inten := true, dir := .rx, state := .ready },
      if x.2 = .sleeping then .running else x.2)
  else x

/-- The two radio handlers serve different roles, so at most one of them acts. -/
theorem txServiced_rxServiced (x : Radio × CpuMode) : txServiced (rxServiced x) = rxServiced (txServiced x) := by
  obtain ⟨r, m⟩ := x
  cases hcfg : r.cfg with
  | noCfg => simp [txServiced, rxServiced, hcfg]
  | txCfg => by_cases hline : (r.ev.disabled && r.inten) = true <;> simp [txServiced, rxServiced, hcfg, hline]
  | rxCfg => by_cases hline : (r.ev.disabled && r.inten) = true <;> simp [txServiced, rxServiced, hcfg, hline]

/-- The radio and the mode after the interrupt `i`. -/
def radioServiced (i : Instr) (x : Radio × CpuMode) : Radio × CpuMode :=
  onlyFor .irqRadioTx txServiced i (onlyFor .irqRadioRx rxServiced i x)

theorem radioServiced_comm (i j : Instr) (x : Radio × CpuMode) :
    radioServiced i (radioServiced j x) = radioServiced j (radioServiced i x) := by
  unfold radioServiced onlyFor
  by_cases hti : i = .irqRadioTx <;> by_cases htj : j = .irqRadioTx <;> by_cases hri : i = .irqRadioRx <;>
    by_cases hrj : j = .irqRadioRx <;> simp_all [txServiced_rxServiced]

/-- The state after the interrupt `i`, element by element. -/
def interrupted (i : Instr) (s : State) : State :=
  { s with
    timer := onlyFor .irqTimer (fun x => { x with hd := serviced x.hd }) i s.timer
    rtc := onlyFor .irqRtc (fun x => { x with hd := serviced x.hd }) i s.rtc
    rng := onlyFor .irqRng (fun x => { x with hd := serviced x.hd }) i s.rng
    i2c := onlyFor .irqI2c (fun x => { x with hd := serviced x.hd }) i s.i2c
    radio := (radioServiced i (s.radio, s.mode)).1
    mode := (radioServiced i (s.radio, s.mode)).2 }

theorem interrupted_comm (i j : Instr) (s : State) : interrupted i (interrupted j s) = interrupted j (interrupted i s) := by
  have hradio := radioServiced_comm i j (s.radio, s.mode)
  simp only [interrupted, Prod.mk.eta, hradio, onlyFor_comm _ _ i j]

/-- The generic handler's instruction. -/
def irqOf : Periph → Instr
  | .timer => .irqTimer
  | .rtc => .irqRtc
  | .i2c => .irqI2c
  | .rng => .irqRng

/-- A generic interrupt services its handle, whether its line is high or low. -/
theorem serviceIrq_genericHandler (p : Periph) (s : State) :
    serviceIrq (irqLine p s) (genericHandler p) s = s.setHandle p (serviced (s.handle p)) := by
  unfold serviced
  obtain ⟨hline, h⟩ | ⟨hline, h⟩ := serviceIrq_cases (irqLine p s) (genericHandler p) s
  · rw [irqLine] at hline
    rw [h, if_pos hline, genericHandler_eq]
  · rw [irqLine] at hline
    rw [h, if_neg (by rw [hline]; decide)]
    cases p <;> rfl

theorem interrupted_irqOf (p : Periph) (s : State) :
    interrupted (irqOf p) s = s.setHandle p (serviced (s.handle p)) := by
  cases p <;> simp [irqOf, interrupted, onlyFor, radioServiced, State.setTimer, State.setRtc, State.setI2c, State.setRng]

theorem exec_irqOf (p : Periph) (s : State) : exec (irqOf p) s = .next (interrupted (irqOf p) s) := by
  rw [interrupted_irqOf, ← serviceIrq_genericHandler]
  cases p <;> rfl

theorem exec_irqRadioTx (s : State) : exec .irqRadioTx s = .next (interrupted .irqRadioTx s) := by
  refine congrArg Host.Outcome.next ?_
  by_cases hline : (s.radio.ev.disabled && s.radio.inten && s.radio.cfg == .txCfg) = true <;>
    simp [serviceIrq, radioLine, hline, interrupted, onlyFor, radioServiced, txServiced, radioTxHandler, State.setRadio]

theorem exec_irqRadioRx (s : State) : exec .irqRadioRx s = .next (interrupted .irqRadioRx s) := by
  refine congrArg Host.Outcome.next ?_
  by_cases hline : (s.radio.ev.disabled && s.radio.inten && s.radio.cfg == .rxCfg) = true
  · by_cases hmode : s.mode = .sleeping <;>
      simp [serviceIrq, radioLine, hline, interrupted, onlyFor, radioServiced, rxServiced, radioRxHandler, wake, hmode,
        armRadio_eq, State.setRadio, State.setMode]
  · simp [serviceIrq, radioLine, hline, interrupted, onlyFor, radioServiced, rxServiced]

/-- Every handler's instruction is its interrupt. -/
theorem exec_irq {i : Instr} (hi : i.agent = some .irq) (s : State) : exec i s = .next (interrupted i s) := by
  cases i with
  | irqTimer => exact exec_irqOf .timer s
  | irqRtc => exact exec_irqOf .rtc s
  | irqRng => exact exec_irqOf .rng s
  | irqI2c => exact exec_irqOf .i2c s
  | irqRadioTx => exact exec_irqRadioTx s
  | irqRadioRx => exact exec_irqRadioRx s
  | _ => cases hi

/-- Settles O19: each handler is its interrupt, `exec_irq`, and interrupts commute element by element. -/
theorem interruptHandlersCommute : Obligations.InterruptHandlersCommute := by
  intro i j hi hj s a b c d ha hb hc hd
  rw [exec_irq hi] at ha hd
  rw [exec_irq hj] at hb hc
  cases ha
  cases hb
  cases hc
  cases hd
  exact interrupted_comm j i s

/-! ### R47: another key -/

/-- The state with another key. -/
def withKey (k : Key) (s : State) : State := { s with par := { s.par with key := k } }

/-- An outcome with another key in its state. -/
def outWithKey (k : Key) : Out → Out
  | .next s => .next (withKey k s)
  | .fault r => .fault r
  | .refused r => .refused r

theorem settle_withKey {k : Key} {s : State} {x y : Except Misuse State} (h : y = x.map (withKey k)) :
    settle (withKey k s) y = withKey k (settle s x) := by
  subst h
  cases x <;> rfl

theorem ite_withKey {c : Prop} [Decidable c] {k : Key} {s t : State} {u : State} (h : u = withKey k t) :
    (if c then u else withKey k s) = withKey k (if c then t else s) := by
  rw [h, apply_ite (withKey k)]

theorem waitOn_withKey {finish : State → State → State} (k : Key) (p : Periph) (task : Task)
    (hfinish : ∀ s t, finish (withKey k s) (withKey k t) = withKey k (finish s t)) (s : State) :
    waitOn p task finish (withKey k s) = withKey k (waitOn p task finish s) := by
  have hhandle : (withKey k s).handle p = s.handle p := by cases p <;> rfl
  have hrelease : ((withKey k s).releaseHandle p).setMode .running = withKey k ((s.releaseHandle p).setMode .running) := by
    cases p <;> rfl
  unfold waitOn
  rw [hhandle, hrelease, hfinish]
  split
  · split <;> rfl
  · rfl

theorem timerStart_withKey (k : Key) (ticks : BitVec 32) (s : State) :
    timerStart ticks (withKey k s) = (timerStart ticks s).map (withKey k) := by
  simp only [timerStart, apply_ite (Except.map (withKey k))]
  rfl

theorem rtcStart_withKey (k : Key) (compare : BitVec 32) (s : State) :
    rtcStart compare (withKey k s) = (rtcStart compare s).map (withKey k) := by
  simp only [rtcStart, apply_ite (Except.map (withKey k))]
  rfl

theorem rngStart_withKey (k : Key) (s : State) : rngStart (withKey k s) = (rngStart s).map (withKey k) := by
  simp only [rngStart, apply_ite (Except.map (withKey k))]
  rfl

theorem rngPoll_withKey (k : Key) (s : State) : rngPoll (withKey k s) = (rngPoll s).map (withKey k) := by
  simp only [rngPoll, apply_ite (Except.map (withKey k))]
  rfl

theorem i2cEnable_withKey (k : Key) (s : State) : i2cEnable (withKey k s) = (i2cEnable s).map (withKey k) := by
  simp only [i2cEnable, apply_ite (Except.map (withKey k))]
  rfl

theorem i2cDisable_withKey (k : Key) (s : State) : i2cDisable (withKey k s) = (i2cDisable s).map (withKey k) := by
  simp only [i2cDisable, apply_ite (Except.map (withKey k))]
  rfl

theorem i2cStart_withKey (k : Key) (addr : Byte) (wdata : List Byte) (rlen : Byte) (s : State) :
    i2cStart addr wdata rlen (withKey k s) = (i2cStart addr wdata rlen s).map (withKey k) := by
  simp only [i2cStart, apply_ite (Except.map (withKey k))]
  rfl

theorem finishI2c_withKey (k : Key) (s t : State) :
    finishI2c (withKey k s) (withKey k t) = withKey k (finishI2c s t) := by
  cases h : s.i2c.err <;> simp only [finishI2c, withKey, h] <;> rfl

theorem i2cComplete_withKey (k : Key) (a : Answer) (s : State) :
    i2cComplete a (withKey k s) = withKey k (i2cComplete a s) := by
  unfold i2cComplete
  split <;> rfl

theorem radioInit_withKey (k : Key) (c : RadioCfg) (s : State) :
    radioInit c (withKey k s) = (radioInit c s).map (withKey k) := by
  simp only [radioInit, apply_ite (Except.map (withKey k))]
  rfl

theorem radioStartTx_withKey (k : Key) (strings : List (List Byte)) (s : State) :
    radioStartTx strings (withKey k s) = (radioStartTx strings s).map (withKey k) := by
  simp only [radioStartTx, apply_ite (Except.map (withKey k))]
  rfl

theorem radioStartRx_withKey (k : Key) (s : State) : radioStartRx (withKey k s) = (radioStartRx s).map (withKey k) := by
  simp only [radioStartRx, apply_ite (Except.map (withKey k))]
  rfl

theorem radioEventRead_withKey (k : Key) (f : Byte) (s : State) :
    radioEventRead f (withKey k s) = (radioEventRead f s).map (withKey k) := by
  unfold radioEventRead
  cases h : s.radio.ev.get? f.toNat <;> simp only [withKey, h] <;> rfl

theorem hfclkStop_withKey (k : Key) (s : State) : hfclkStop (withKey k s) = (hfclkStop s).map (withKey k) := by
  simp only [hfclkStop, apply_ite (Except.map (withKey k))]
  rfl

theorem drawNonce_withKey (k : Key) (rest : List Task) (s : State) :
    drawNonce rest (withKey k s) = (drawNonce rest s).map (withKey k) := by
  unfold drawNonce
  rw [rngStart_withKey]
  cases rngStart s <;> rfl

theorem fillScratch_withKey (k : Key) (st : Store) (content : List Byte) (s : State) :
    (withKey k s).fillScratch st content = withKey k (s.fillScratch st content) := by cases st <;> rfl

theorem encodeBegin_withKey (k : Key) (r : Record) (rest : List Task) (s : State) :
    encodeBegin r rest (withKey k s) = (encodeBegin r rest s).map (withKey k) := by
  have htyped : wellTyped (withKey k s) r = wellTyped s r := rfl
  unfold encodeBegin
  rw [htyped, fillScratch_withKey, drawNonce_withKey]
  split
  · split
    · rfl
    · rfl
  · rfl

theorem encodePlain_withKey (k : Key) (r : Record) (s : State) :
    encodePlain r (withKey k s) = (encodePlain r s).map (withKey k) := by
  simp only [encodePlain, apply_ite (Except.map (withKey k))]
  rfl

theorem decodePlain_withKey (k : Key) (ty : BitVec 15) (content : List Byte) (s : State) :
    decodePlain ty content (withKey k s) = withKey k (decodePlain ty content s) := by
  unfold decodePlain
  rw [interpret_eq, interpret_eq, apply_ite (withKey k)]
  rfl

theorem timerTick_withKey (k : Key) (s : State) : timerTick (withKey k s) = withKey k (timerTick s) := by
  simp only [timerTick, apply_ite (withKey k)]
  rfl

theorem rtcTick_withKey (k : Key) (s : State) : rtcTick (withKey k s) = withKey k (rtcTick s) := by
  simp only [rtcTick, apply_ite (withKey k)]
  rfl

theorem startTask_withKey (k : Key) (s : State) : startTask (withKey k s) = withKey k (startTask s) := by
  cases h : s.radio.dir <;> simp only [startTask, withKey, h] <;> rfl

theorem radioRamp_withKey (k : Key) (s : State) : radioRamp (withKey k s) = withKey k (radioRamp s) := by
  simp only [radioRamp, apply_ite (withKey k), ← startTask_withKey]
  rfl

theorem chainDisable_withKey (k : Key) (s : State) : chainDisable (withKey k s) = withKey k (chainDisable s) :=
  ite_withKey rfl

theorem radioTxEnd_withKey (k : Key) (s : State) : radioTxEnd (withKey k s) = withKey k (radioTxEnd s) := by
  unfold radioTxEnd
  dsimp only
  rw [← chainDisable_withKey]
  rfl

theorem radioRxHandler_withKey (k : Key) (s : State) : radioRxHandler (withKey k s) = withKey k (radioRxHandler s) := by
  unfold radioRxHandler wake
  rw [apply_ite (withKey k)]
  rfl

theorem rxOffer_withKey (k : Key) (f : Frame) (rssi : Rssi) (s : State) :
    rxOffer f rssi (withKey k s) = withKey k (rxOffer f rssi s) := by
  simp only [rxOffer, apply_ite (withKey k)]
  rfl

theorem receiveFrame_withKey (k : Key) (f : Frame) (rssi : Rssi) (s : State) :
    receiveFrame f rssi (withKey k s) = withKey k (receiveFrame f rssi s) := ite_withKey (rxOffer_withKey k f rssi s)

theorem execRadioRxStore_withKey (k : Key) (s : State) :
    execRadioRxStore (withKey k s) = outWithKey k (execRadioRxStore s) := by
  have hpending : storePending (withKey k s) = storePending s := rfl
  unfold execRadioRxStore
  rw [hpending]
  split
  · rfl
  · rw [apply_ite (outWithKey k)]
    rfl

theorem rxEnd_withKey (k : Key) (f : Frame) (tail : List Byte) (s : State) :
    rxEnd f tail (withKey k s) = withKey k (rxEnd f tail s) := by
  unfold rxEnd
  dsimp only
  rw [← chainDisable_withKey]
  rfl

theorem execRadioRxEnd_withKey (k : Key) (tail : List Byte) (s : State) :
    execRadioRxEnd tail (withKey k s) = outWithKey k (execRadioRxEnd tail s) := by
  have hpending : endPending (withKey k s) = endPending s := rfl
  refine congrArg Host.Outcome.next ?_
  rw [hpending]
  cases endPending s with
  | none => rfl
  | some f => exact ite_withKey (rxEnd_withKey k f tail s)

theorem execEnvAirDeliver_withKey (k : Key) (n : Nat) (body : List Byte) (crc : BitVec 24) (rssi : Rssi) (s : State) :
    execEnvAirDeliver n body crc rssi (withKey k s) = outWithKey k (execEnvAirDeliver n body crc rssi s) := by
  have hair : (withKey k s).air[n]? = s.air[n]? := rfl
  refine congrArg Host.Outcome.next ?_
  rw [hair]
  cases s.air[n]? with
  | none => rfl
  | some f => exact ite_withKey (receiveFrame_withKey k _ rssi (s.dropFrame n))

theorem waitTxDone_withKey (k : Key) (s : State) : waitTxDone (withKey k s) = withKey k (waitTxDone s) := by
  simp only [waitTxDone, apply_ite (withKey k)]
  rfl

theorem waitRx_withKey (k : Key) (s : State) : waitRx (withKey k s) = withKey k (waitRx s) := by
  simp only [waitRx, apply_ite (withKey k)]
  rfl

theorem blockingBegin_withKey (k : Key) (c : BlockingCall) (s : State) :
    blockingBegin c (withKey k s) = (blockingBegin c s).map (withKey k) := by
  have hstart : blockingStart c (withKey k s) = (blockingStart c s).map (withKey k) := by
    cases c with
    | timer ticks => exact timerStart_withKey k ticks s
    | rtc compare => exact rtcStart_withKey k compare s
    | i2c addr wdata rlen => exact i2cStart_withKey k addr wdata rlen s
    | rng => exact rngStart_withKey k s
  unfold blockingBegin
  rw [hstart]
  cases blockingStart c s <;> rfl

/-- Every instruction but the decoder's two does the same with another key. -/
theorem exec_withKey (k : Key) {i : Instr} (hdecode : ∀ v, i ≠ .codecDecode v) (hpkt : ∀ ty c, i ≠ .pktEnc ty c)
    (s : State) : exec i (withKey k s) = outWithKey k (exec i s) := by
  have next {t u : State} (h : u = withKey k t) : (Host.Outcome.next u : Out) = outWithKey k (.next t) := by rw [h]; rfl
  cases i with
  | timerStart ticks => exact next (settle_withKey (timerStart_withKey k ticks s))
  | timerWait => exact next (waitOn_withKey (finish := finishUnit) k .timer _ (fun _ _ => rfl) s)
  | rtcStart compare => exact next (settle_withKey (rtcStart_withKey k compare s))
  | rtcWait => exact next (waitOn_withKey (finish := finishUnit) k .rtc _ (fun _ _ => rfl) s)
  | rngStart => exact next (settle_withKey (rngStart_withKey k s))
  | rngWait => exact next (waitOn_withKey (finish := finishByte) k .rng _ (fun _ _ => rfl) s)
  | rngPoll => exact next (settle_withKey (rngPoll_withKey k s))
  | i2cEnable => exact next (settle_withKey (i2cEnable_withKey k s))
  | i2cDisable => exact next (settle_withKey (i2cDisable_withKey k s))
  | i2cStart addr wdata rlen => exact next (settle_withKey (i2cStart_withKey k addr wdata rlen s))
  | i2cWait => exact next (waitOn_withKey k .i2c _ (finishI2c_withKey k) s)
  | radioInitTx => exact next (settle_withKey (radioInit_withKey k .txCfg s))
  | radioInitRx => exact next (settle_withKey (radioInit_withKey k .rxCfg s))
  | radioStartTx strings => exact next (settle_withKey (radioStartTx_withKey k strings s))
  | radioStartRx => exact next (settle_withKey (radioStartRx_withKey k s))
  | radioPayload => rfl
  | radioEventRead f => exact next (settle_withKey (radioEventRead_withKey k f s))
  | radioEventResetAll => rfl
  | radioDisable => rfl
  | radioTakeRx => rfl
  | codecEncodeEnc r => exact next (settle_withKey (encodeBegin_withKey k r _ s))
  | codecEncodePlain r => exact next (settle_withKey (encodePlain_withKey k r s))
  | codecDecode v => exact absurd rfl (hdecode v)
  | hfclkStart => rfl
  | hfclkStop => exact next (settle_withKey (hfclkStop_withKey k s))
  | timerTick => exact next (ite_withKey (timerTick_withKey k s))
  | rtcTick => exact next (ite_withKey (rtcTick_withKey k s))
  | rngProduce v => exact next (ite_withKey rfl)
  | i2cComplete a => exact next (ite_withKey (i2cComplete_withKey k a s))
  | radioRamp => exact next (ite_withKey (radioRamp_withKey k s))
  | radioTxEnd => exact next (ite_withKey (radioTxEnd_withKey k s))
  | radioRxOffer f rssi => exact next (ite_withKey (rxOffer_withKey k f rssi s))
  | radioRxStore => exact execRadioRxStore_withKey k s
  | radioRxEnd tail => exact execRadioRxEnd_withKey k tail s
  | radioShortStart => exact next (ite_withKey (startTask_withKey k s))
  | radioShortDisable => exact next (ite_withKey (chainDisable_withKey k s))
  | irqTimer => exact next (ite_withKey rfl)
  | irqRtc => exact next (ite_withKey rfl)
  | irqRng => exact next (ite_withKey rfl)
  | irqI2c => exact next (ite_withKey rfl)
  | irqRadioTx => exact next (ite_withKey rfl)
  | irqRadioRx => exact next (ite_withKey (radioRxHandler_withKey k s))
  | envAirDeliver n body crc rssi => exact execEnvAirDeliver_withKey k n body crc rssi s
  | envAirDrop n => rfl
  | waitTxDone => exact next (waitTxDone_withKey k s)
  | blocking c => exact next (settle_withKey (blockingBegin_withKey k c s))
  | drawNonce => exact next (settle_withKey (drawNonce_withKey k _ s))
  | sendEncrypted r => exact next (settle_withKey (encodeBegin_withKey k r _ s))
  | waitRx => exact next (waitRx_withKey k s)
  | pktPlain ty content => exact next (decodePlain_withKey k ty content s)
  | pktEnc ty content => exact absurd rfl (hpkt ty content)
  | cfgword board major minor patch => rfl

/-- Settles O20: the outcome commutes with the change of the key, `exec_withKey`. -/
theorem keyReachesOnlyTheCodec : Obligations.KeyReachesOnlyTheCodec := by
  intro i s t k hdecode hpkt h
  have hk := exec_withKey k hdecode hpkt s
  rw [h] at hk
  exact hk

end Sys2Proof.Machine
end

section
/-! ## Proofs: the step (00_scope.md section 6)

A step is the turn at the head of the agenda, and the host's turn is its task under way or its next word. The first part
says each of these once; the statements about the step and its runs go through it. -/

namespace Sys2Proof.Machine

/-! ### The turn taken -/

theorem step_of_no_turn {s : State} (h : s.turns = []) : step s = .next s := by
  rw [step, h]

theorem step_of_host {s : State} {ts : List Turn} (h : s.turns = .host :: ts) : step s = hostTurn (s.setTurns ts) := by
  rw [step, h]

theorem step_of_agent {s : State} {i : Instr} {ts : List Turn} (h : s.turns = .agent i :: ts) :
    step s = agentTurn i (s.setTurns ts) := by
  rw [step, h]

/-- An agent's turn is its internal step (log 1). -/
theorem step_eq_exec {s : State} {i : Instr} {a : Agent} {ts : List Turn} (h : s.turns = .agent i :: ts)
    (hi : i.agent = some a) (ha : a ≠ .host) : step s = exec i (s.setTurns ts) := by
  rw [step_of_agent h]
  obtain ⟨-, he⟩ | ⟨hn, -⟩ := agentTurn_cases i (s.setTurns ts)
  · exact he
  · rw [hi] at hn
    obtain hn | hn := hn
    · cases hn
    · cases hn; exact absurd rfl ha

/-- An instruction that is no agent's step gets no turn (log 26). -/
theorem step_of_no_agent {s : State} {i : Instr} {ts : List Turn} (h : s.turns = .agent i :: ts)
    (hi : i.agent = none ∨ i.agent = some .host) : step s = .refused .notAnAgentStep := by
  rw [step_of_agent h]
  obtain ⟨⟨a, hs, ha⟩, -⟩ | ⟨-, he⟩ := agentTurn_cases i (s.setTurns ts)
  · rw [hs] at hi
    obtain hn | hn := hi
    · cases hn
    · cases hn; exact absurd rfl ha
  · exact he

/-- A host that is inside an operation goes on with it (log 12, log 15). -/
theorem step_eq_runTask {s : State} {ts : List Turn} {x : Task} {rest : List Task} (h : s.turns = .host :: ts)
    (hm : s.mode ≠ .halted) (ht : s.host.todo = x :: rest) : step s = runTask x ((s.setTurns ts).setTasks rest) := by
  rw [step_of_host h, hostTurn, if_neg (show (s.setTurns ts).mode ≠ .halted from hm)]
  simp only [State.setTurns_host, ht]

/-- A host that is inside none issues its next one. -/
theorem step_eq_issue {s : State} {ts : List Turn} (h : s.turns = .host :: ts) (hm : s.mode ≠ .halted)
    (ht : s.host.todo = []) : step s = issue (s.setTurns ts) := by
  rw [step_of_host h, hostTurn, if_neg (show (s.setTurns ts).mode ≠ .halted from hm)]
  simp only [State.setTurns_host, ht]

/-! ### The operation issued -/

theorem issue_of_no_word {s : State} (h : s.host.words = []) : issue s = .next s := by
  simp only [issue, fetch, h]

theorem issue_of_decoded {s : State} {w : HostWord} {ws : List HostWord} {i : Instr} {rest : List Byte}
    (h : s.host.words = w :: ws) (hd : decode (codedWord s w) = .ok (i, rest)) :
    issue s = exec i (s.setWords (remainingWords rest ws)) := by
  simp only [issue, fetch, h, hd]

theorem issue_of_rejected {s : State} {w : HostWord} {ws : List HostWord} {e : DecodeError}
    (h : s.host.words = w :: ws) (hd : decode (codedWord s w) = .error e) :
    issue s = .next (rejectWord e (s.setWords ws)) := by
  simp only [issue, fetch, h, hd]

theorem remainingWords_eq_ite (rest : List Byte) (ws : List HostWord) :
    remainingWords rest ws = if rest = [] then ws else .call rest :: ws := by
  cases rest with
  | nil => rfl
  | cons b bs => rw [if_neg (List.cons_ne_nil b bs)]; rfl

/-- Settles O7: by `step_eq_issue` and `issue_of_decoded`; a payload and the configuration word leave no bytes, so no
word. -/
theorem stepRunsTheFetchedInstruction : Obligations.StepRunsTheFetchedInstruction := by
  intro s ts ws hturns hmode htodo
  rw [step_eq_issue hturns hmode htodo]
  refine ⟨fun bytes i rest hw hd => ?_, fun i rest hw hd => ?_, fun hw => ?_⟩
  · rw [issue_of_decoded (s := s.setTurns ts) hw hd, remainingWords_eq_ite]
    rfl
  · have hd' : decode (codedWord (s.setTurns ts) .packet) = .ok (i, rest) := hd
    obtain ⟨-, rfl⟩ := decodePacket_encodesBack hd
    rw [issue_of_decoded (s := s.setTurns ts) hw hd']
    rfl
  · exact issue_of_decoded (s := s.setTurns ts) (rest := []) hw rfl

/-- Settles O8, turn by turn. -/
theorem stepTakesTheNextTurn : Obligations.StepTakesTheNextTurn :=
  fun _ _ => ⟨step_of_no_turn, fun _ _ => step_eq_exec, fun _ => step_of_no_agent, fun _ _ => step_eq_runTask⟩

/-- A payload of fewer than two bytes has no tag (30_encoding.md R123(b)). -/
theorem decodePacket_of_short {payload : List Byte} (h : payload.length < 2) : decodePacket payload = .error .noTag := by
  match payload, h with
  | [], _ => rfl
  | [_], _ => rfl

/-- A word that is no operation is refused for the reason it was not decoded (log 10). -/
theorem rejectWord_of_ne_noTag {e : DecodeError} (h : e ≠ .noTag) (s : State) :
    rejectWord e s = s.refuse (.notAnOperation e) := by
  cases e with
  | noTag => exact absurd rfl h
  | _ => rfl

/-- Settles O9: a rejected word by `issue_of_rejected`; a payload of a length byte of at most 2 has no tag. -/
theorem undecodableWordMarksTheRunRefused : Obligations.UndecodableWordMarksTheRunRefused := by
  intro s ts ws hturns hmode htodo
  rw [step_eq_issue hturns hmode htodo]
  refine ⟨fun bytes e hw hd => ?_, fun hw hlen => ?_, fun hw => issue_of_no_word (s := s.setTurns ts) hw⟩
  · have he : e ≠ .noTag := fun hn => decodeOp_ne_noTag bytes (hn ▸ hd)
    rw [issue_of_rejected (s := s.setTurns ts) hw hd, rejectWord_of_ne_noTag he]
    rfl
  · have hshort : (packetBytes (s.setTurns ts)).length < 2 := by
      have hbyte : (s.setTurns ts).byteAt .buf 0 = s.byteAt .buf 0 := rfl
      rw [packetBytes, State.memRead_length, hbyte]
      omega
    rw [issue_of_rejected (s := s.setTurns ts) hw (decodePacket_of_short hshort)]
    rfl

/-! ### R164 and R171: the counters tick -/

/-- A running timer that does not reach its target counts. -/
theorem exec_timerTick_of_ne {s : State} (hr : s.timer.running = true)
    (hn : nextCount s.par.timerWidth s.timer.counter ≠ s.timer.target) :
    exec .timerTick s =
      .next (s.setTimer { s.timer with counter := nextCount s.par.timerWidth s.timer.counter }) :=
  congrArg Host.Outcome.next ((if_pos hr).trans (if_neg hn))

/-- A running timer that reaches its target stops and sets its flag. -/
theorem exec_timerTick_of_eq {s : State} (hr : s.timer.running = true)
    (hn : nextCount s.par.timerWidth s.timer.counter = s.timer.target) :
    exec .timerTick s =
      .next
        (s.setTimer
          { hd := { s.timer.hd with done := true }, counter := s.timer.target, target := s.timer.target,
            running := false }) := by
  refine congrArg Host.Outcome.next ((if_pos hr).trans ((if_pos hn).trans ?_))
  rw [hn]
  rfl

/-- A running real-time counter counts, and sets its flag at a match while Active. -/
theorem exec_rtcTick {s : State} (hr : s.rtc.running = true) :
    exec .rtcTick s =
      .next
        (s.setRtc
          { s.rtc with
            counter := nextCount s.par.rtcWidth s.rtc.counter,
            hd :=
              { s.rtc.hd with
                done :=
                  s.rtc.hd.done ||
                    (decide (nextCount s.par.rtcWidth s.rtc.counter = s.rtc.compare) &&
                      decide (s.rtc.hd.phase = .active)) } }) := by
  refine congrArg Host.Outcome.next ((if_pos hr).trans ?_)
  by_cases hmatch : nextCount s.par.rtcWidth s.rtc.counter = s.rtc.compare ∧ s.rtc.hd.phase = .active
  · refine (if_pos hmatch).trans ?_
    obtain ⟨hcount, hactive⟩ := hmatch
    simp [hcount, hactive, State.completeHandle_eq, State.setRtc]
  · refine (if_neg hmatch).trans ?_
    rw [← Bool.decide_and, decide_eq_false hmatch, Bool.or_false]

/-- Settles O23: running, by the three lemmas above; stopped, the step is not enabled. -/
theorem countersTickAndMatch : Obligations.CountersTickAndMatch :=
  fun s => ⟨exec_timerTick_of_ne, exec_timerTick_of_eq,
    fun hr => congrArg Host.Outcome.next (if_neg (by simp [hr])), exec_rtcTick,
    fun hr => congrArg Host.Outcome.next (if_neg (by simp [hr]))⟩

/-! ### R164 and R175: a started counter runs to its target -/

/-- Below `2^width` the next count is one more. -/
theorem nextCount_of_lt {width n : Nat} (h : n + 1 < 2 ^ width) : nextCount width n = n + 1 := Nat.mod_eq_of_lt h

/-- A tick short of the target counts on. -/
theorem step_timerTick {s : State} {ts : List Turn} (ht : s.turns = .agent .timerTick :: ts)
    (hr : s.timer.running = true) (hlt : s.timer.counter + 1 < s.timer.target)
    (hw : s.timer.target < 2 ^ s.par.timerWidth) :
    step s = .next { s with turns := ts, timer := { s.timer with counter := s.timer.counter + 1 } } := by
  have hnext := nextCount_of_lt (hlt.trans hw)
  rw [step_eq_exec ht rfl nofun, exec_timerTick_of_ne (s := s.setTurns ts) hr (hnext.trans_ne hlt.ne)]
  exact congrArg (fun n => Host.Outcome.next { s with turns := ts, timer := { s.timer with counter := n } }) hnext

/-- Ticks short of the target only count. -/
theorem run_timerTicks {m : Nat} {s : State} {ts : List Turn}
    (ht : s.turns = List.replicate m (.agent .timerTick) ++ ts) (hr : s.timer.running = true)
    (hlt : s.timer.counter + m < s.timer.target) (hw : s.timer.target < 2 ^ s.par.timerWidth) :
    Host.Core.run Sys2Proof.core m s =
      .next { s with turns := ts, timer := { s.timer with counter := s.timer.counter + m } } := by
  induction m generalizing s with
  | zero => cases ht; rfl
  | succ m ih =>
    have hstep := step_timerTick (ts := List.replicate m (.agent .timerTick) ++ ts) ht hr (by omega) hw
    have hrest := ih (s := { s with turns := _, timer := { s.timer with counter := s.timer.counter + 1 } }) rfl hr
      (by simp only; omega) hw
    refine (run_succ_of_step hstep m).trans (hrest.trans ?_)
    simp only [Nat.add_assoc, Nat.add_comm 1 m]

/-- The last of several turns stands behind the others. -/
theorem replicate_succ_append {α : Type} (m : Nat) (x : α) (xs : List α) :
    List.replicate (m + 1) x ++ xs = List.replicate m x ++ x :: xs := by
  rw [List.replicate_succ', List.append_assoc]
  rfl

/-- Settles O24: `run_timerTicks` up to the last tick, which is a match. -/
theorem startedTimerCompletesAfterItsTicks : Obligations.StartedTimerCompletesAfterItsTicks := by
  intro s n ts hr hzero htarget hpos hw
  have short (m : Nat) (hm : m < n) (us : List Turn) (ht : s.turns = List.replicate m (.agent .timerTick) ++ us) :
      Host.Core.run Sys2Proof.core m s = .next { s with turns := us, timer := { s.timer with counter := m } } := by
    rw [run_timerTicks ht hr (by omega) (by omega), hzero, Nat.zero_add]
  refine ⟨fun m hm ht => short m hm ts ht, fun ht => ?_⟩
  obtain ⟨m, rfl⟩ : ∃ m, n = m + 1 := ⟨n - 1, by omega⟩
  rw [replicate_succ_append] at ht
  rw [run_add (short m (by omega) _ ht)]
  have hlast : nextCount s.par.timerWidth m = s.timer.target := (nextCount_of_lt hw).trans htarget.symm
  have hstep := (step_eq_exec (s := { s with turns := .agent .timerTick :: ts, timer := { s.timer with counter := m } })
    rfl rfl nofun).trans (exec_timerTick_of_eq (s := State.setTurns _ ts) hr hlast)
  rw [run_succ_of_step hstep, ← htarget]
  rfl

/-- A tick short of the compare value counts on. -/
theorem step_rtcTick {s : State} {ts : List Turn} (ht : s.turns = .agent .rtcTick :: ts)
    (hr : s.rtc.running = true) (hw : s.rtc.counter + 1 < 2 ^ s.par.rtcWidth)
    (hne : s.rtc.counter + 1 ≠ s.rtc.compare) :
    step s = .next { s with turns := ts, rtc := { s.rtc with counter := s.rtc.counter + 1 } } := by
  have hnext := nextCount_of_lt hw
  rw [step_eq_exec ht rfl nofun, exec_rtcTick (s := s.setTurns ts) hr]
  simp only [State.setTurns_rtc, State.setTurns_par, hnext, hne, decide_false, Bool.false_and, Bool.or_false]
  rfl

/-- Ticks short of the first match only count. -/
theorem run_rtcTicks {m : Nat} {s : State} {ts : List Turn}
    (ht : s.turns = List.replicate m (.agent .rtcTick) ++ ts) (hr : s.rtc.running = true)
    (hw : s.rtc.counter + m < 2 ^ s.par.rtcWidth)
    (hne : ∀ j, s.rtc.counter < j → j ≤ s.rtc.counter + m → j ≠ s.rtc.compare) :
    Host.Core.run Sys2Proof.core m s =
      .next { s with turns := ts, rtc := { s.rtc with counter := s.rtc.counter + m } } := by
  induction m generalizing s with
  | zero => cases ht; rfl
  | succ m ih =>
    have hstep := step_rtcTick (ts := List.replicate m (.agent .rtcTick) ++ ts) ht hr (by omega)
      (hne _ (by omega) (by omega))
    have hrest := ih (s := { s with turns := _, rtc := { s.rtc with counter := s.rtc.counter + 1 } }) rfl hr
      (by simp only; omega) fun j hlow hhigh => hne j (by simp only at hlow; omega) (by simp only at hhigh; omega)
    refine (run_succ_of_step hstep m).trans (hrest.trans ?_)
    simp only [Nat.add_assoc, Nat.add_comm 1 m]

/-- Settles O25: no tick before the `n`-th matches, because a compare value of 0 is met only by the wrap; the `n`-th
does. -/
theorem firstCompareMatchComesOnTime : Obligations.FirstCompareMatchComesOnTime := by
  intro s n ts hr hzero hactive hdone hcmp hn
  have hn' : n ≤ 2 ^ s.par.rtcWidth ∧ 0 < n ∧ n % 2 ^ s.par.rtcWidth = s.rtc.compare ∧
      ∀ j, 0 < j → j < n → j ≠ s.rtc.compare := by
    have hpos : 0 < 2 ^ s.par.rtcWidth := Nat.pow_pos (by decide)
    split at hn
    · next h0 => subst hn; exact ⟨le_rfl, hpos, by rw [Nat.mod_self, h0], fun j hj _ => by omega⟩
    · next h0 => subst hn; exact ⟨hcmp.le, by omega, Nat.mod_eq_of_lt hcmp, fun j _ hj => hj.ne⟩
  obtain ⟨hle, hpos, hmod, hne⟩ := hn'
  have short (m : Nat) (hm : m < n) (us : List Turn) (ht : s.turns = List.replicate m (.agent .rtcTick) ++ us) :
      Host.Core.run Sys2Proof.core m s = .next { s with turns := us, rtc := { s.rtc with counter := m } } := by
    rw [run_rtcTicks ht hr (by omega) fun j hlow hhigh => hne j (by omega) (by omega), hzero, Nat.zero_add]
  refine ⟨fun m hm ht => short m hm ts ht, fun ht => ?_⟩
  obtain ⟨m, rfl⟩ : ∃ m, n = m + 1 := ⟨n - 1, by omega⟩
  rw [replicate_succ_append] at ht
  rw [run_add (short m (by omega) _ ht)]
  have hstep := (step_eq_exec (s := { s with turns := .agent .rtcTick :: ts, rtc := { s.rtc with counter := m } })
    rfl rfl nofun).trans (exec_rtcTick (s := State.setTurns _ ts) hr)
  have hlast : nextCount s.par.rtcWidth m = s.rtc.compare := hmod
  rw [run_succ_of_step hstep]
  simp [State.setTurns, State.setRtc, hlast, hactive]

end Sys2Proof.Machine
end

section
/-! ## Proofs: waits, handlers and the host's sequences (40_blocking_primitive.md, 42_i2c.md, 43_rng.md, 46_host_sequences.md)

`waitOn_of_done`, `waitOn_of_pending` and `waitOn_of_idle` are the three ends of a wait; the statements about the four
blocking peripherals are those with the driver's own end written out. -/

namespace Sys2Proof.Machine

/-! ### R143: the ends of a wait -/

theorem waitOn_of_done {p : Periph} {s : State} (ha : (s.handle p).phase = .active) (hd : (s.handle p).done = true)
    (task : Task) (finish : State → State → State) :
    waitOn p task finish s = finish s ((s.releaseHandle p).setMode .running) :=
  (if_pos ha).trans (if_pos hd)

theorem waitOn_of_pending {p : Periph} {s : State} (ha : (s.handle p).phase = .active)
    (hd : (s.handle p).done = false) (task : Task) (finish : State → State → State) :
    waitOn p task finish s = s.hold task :=
  (if_pos ha).trans (if_neg (by simp [hd]))

theorem waitOn_of_idle {p : Periph} {s : State} (hi : (s.handle p).phase = .idle) (task : Task)
    (finish : State → State → State) : waitOn p task finish s = s.refuse (.notActive p) :=
  if_neg (by simp [hi])

/-- The wait of each blocking peripheral. -/
def waitInstrs : List (Periph × Instr) := [(.timer, .timerWait), (.rtc, .rtcWait), (.i2c, .i2cWait), (.rng, .rngWait)]

/-- The four waits are one operation with the driver's own end. -/
theorem exec_waitInstr {p : Periph} {i : Instr} (h : (p, i) ∈ waitInstrs) :
    ∃ finish, ∀ s, exec i s = .next (waitOn p (.op i) finish s) := by
  simp only [waitInstrs, List.mem_cons, Prod.mk.injEq, List.not_mem_nil, or_false] at h
  obtain ⟨rfl, rfl⟩ | ⟨rfl, rfl⟩ | ⟨rfl, rfl⟩ | ⟨rfl, rfl⟩ := h
  · exact ⟨finishUnit, fun _ => rfl⟩
  · exact ⟨finishUnit, fun _ => rfl⟩
  · exact ⟨finishI2c, fun _ => rfl⟩
  · exact ⟨finishByte, fun _ => rfl⟩

/-- The end of `I2C_WAIT` in one piece: the bytes or the failure, and everything cleared (42_i2c.md R188). -/
theorem finishI2c_eq (s t : State) :
    finishI2c s t =
      (t.setI2c { t.i2c with txn := none, rdata := [], err := .noError }).setResult
        (if s.i2c.err = .noError then .ok (.bytes s.i2c.rdata)
          else if s.i2c.err = .nack then .err .i2cNack else .err .i2cBus) := by
  cases h : s.i2c.err <;> simp only [finishI2c, h] <;> rfl

theorem exec_timerWait_of_done {s : State} (ha : s.timer.hd.phase = .active) (hd : s.timer.hd.done = true) :
    exec .timerWait s =
      .next
        { s with
          timer := { s.timer with hd := { phase := .idle, done := false, inten := false } }, mode := .running,
          host := { s.host with result := .ok .unit } } :=
  congrArg Host.Outcome.next (waitOn_of_done (p := .timer) ha hd _ finishUnit)

theorem exec_rtcWait_of_done {s : State} (ha : s.rtc.hd.phase = .active) (hd : s.rtc.hd.done = true) :
    exec .rtcWait s =
      .next
        { s with
          rtc := { s.rtc with hd := { phase := .idle, done := false, inten := false } }, mode := .running,
          host := { s.host with result := .ok .unit } } :=
  congrArg Host.Outcome.next (waitOn_of_done (p := .rtc) ha hd _ finishUnit)

theorem exec_rngWait_of_done {s : State} (ha : s.rng.hd.phase = .active) (hd : s.rng.hd.done = true) :
    exec .rngWait s =
      .next
        { s with
          rng := { s.rng with hd := { phase := .idle, done := false, inten := false } }, mode := .running,
          host := { s.host with result := .ok (.byte s.rng.value) } } :=
  congrArg Host.Outcome.next (waitOn_of_done (p := .rng) ha hd _ finishByte)

theorem exec_i2cWait_of_done {s : State} (ha : s.i2c.hd.phase = .active) (hd : s.i2c.hd.done = true) :
    exec .i2cWait s =
      .next
        { s with
          i2c :=
            { s.i2c with
              hd := { phase := .idle, done := false, inten := false }, txn := none, rdata := [], err := .noError },
          mode := .running,
          host :=
            { s.host with
              result :=
                if s.i2c.err = .noError then .ok (.bytes s.i2c.rdata)
                else if s.i2c.err = .nack then .err .i2cNack else .err .i2cBus } } :=
  congrArg Host.Outcome.next ((waitOn_of_done (p := .i2c) ha hd _ finishI2c).trans (finishI2c_eq s _))

/-- A wait whose peripheral is not done holds the host (log 12). -/
theorem exec_wait_of_pending {p : Periph} {i : Instr} (h : (p, i) ∈ waitInstrs) {s : State}
    (ha : (s.handle p).phase = .active) (hd : (s.handle p).done = false) :
    exec i s =
      .next { s with mode := .sleeping, host := { s.host with todo := .op i :: s.host.todo, result := .held } } := by
  obtain ⟨finish, hexec⟩ := exec_waitInstr h
  rw [hexec, waitOn_of_pending ha hd, State.hold_eq]

/-- A wait of an Idle peripheral is refused (40_blocking_primitive.md R147). -/
theorem exec_wait_of_idle {p : Periph} {i : Instr} (h : (p, i) ∈ waitInstrs) {s : State}
    (hi : (s.handle p).phase = .idle) :
    exec i s = .next { s with refused := true, host := { s.host with result := .refused (.notActive p) } } := by
  obtain ⟨finish, hexec⟩ := exec_waitInstr h
  rw [hexec, waitOn_of_idle hi, State.refuse_eq]

/-- Settles O26: the three ends of a wait. -/
theorem waitCompletesHoldsOrIsRefused : Obligations.WaitCompletesHoldsOrIsRefused :=
  fun _ => ⟨exec_timerWait_of_done, exec_rtcWait_of_done, exec_rngWait_of_done, exec_i2cWait_of_done,
    fun _ _ h => ⟨exec_wait_of_pending h, exec_wait_of_idle h⟩⟩

/-- Settles O34: the word has no operands; the ends of the wait as for every peripheral. -/
theorem i2cWaitReturnsOrRaises : Obligations.I2cWaitReturnsOrRaises := by
  have hmem : (Periph.i2c, Instr.i2cWait) ∈ waitInstrs := by simp [waitInstrs]
  exact fun _ _ => ⟨rfl, exec_i2cWait_of_done, exec_wait_of_pending hmem, exec_wait_of_idle hmem⟩

/-! ### R203 and R207: the generator -/

theorem rngProduceEnabled_iff (s : State) :
    rngProduceEnabled s = true ↔ s.rng.hd.phase = .active ∧ s.rng.hd.done = false := by
  simp [rngProduceEnabled]

/-- Settles O28: enabled exactly while Active and not done, `rngProduceEnabled_iff`. -/
theorem rngProduceWritesAnyDraw : Obligations.RngProduceWritesAnyDraw :=
  fun _ s => ⟨fun ha hd => congrArg Host.Outcome.next (if_pos ((rngProduceEnabled_iff s).2 ⟨ha, hd⟩)),
    fun h => congrArg Host.Outcome.next (if_neg (mt (rngProduceEnabled_iff s).1 h))⟩

/-- A draw of a nonce is refused as its first generation is (43_rng.md R207). -/
theorem drawNonce_of_not_idle {s : State} (h : s.rng.hd.phase ≠ .idle) (rest : List Task) :
    drawNonce rest s = .error (.notIdle .rng) := by
  rw [drawNonce, rngStart_of_not_idle h]

theorem exec_drawNonce (s : State) : exec .drawNonce s = .next (settle s (drawNonce [] s)) := rfl

/-- Settles O29: accepted, by `drawNonce_ok_iff`; refused, because Active is not Idle. -/
theorem drawNonceBeginsWithAGeneration : Obligations.DrawNonceBeginsWithAGeneration := by
  intro s
  rw [exec_drawNonce]
  refine ⟨fun hidle => congrArg Host.Outcome.next ?_, fun hactive => congrArg Host.Outcome.next ?_⟩
  · exact (settle_of_ok_iff (drawNonce_ok_iff [] s)).1 hidle
  · exact settle_of_error (drawNonce_of_not_idle (by simp [hactive]) [])

/-! ### R186 and R187: the answer of an I2C target -/

theorem i2cCompleteEnabled_iff (a : Answer) (s : State) :
    i2cCompleteEnabled a s = true ↔
      (s.i2c.hd.phase = .active ∧ s.i2c.hd.done = false) ∧ answerFits s.i2c.txn a = true ∧
        (answerResult a).isSome = true := by
  simp [i2cCompleteEnabled, and_assoc]

/-- An answer that fits is published with its result (42_i2c.md R187). -/
theorem exec_i2cComplete_of_fits {a : Answer} {s : State} {rdata : List Byte} {err : BusError}
    (ha : s.i2c.hd.phase = .active) (hd : s.i2c.hd.done = false) (hfits : answerFits s.i2c.txn a = true)
    (hr : answerResult a = some (rdata, err)) :
    exec (.i2cComplete a) s =
      .next { s with i2c := { s.i2c with hd := { s.i2c.hd with done := true }, rdata := rdata, err := err } } := by
  refine congrArg Host.Outcome.next ((if_pos ((i2cCompleteEnabled_iff a s).2 ⟨⟨ha, hd⟩, hfits, by simp [hr]⟩)).trans ?_)
  simp only [i2cComplete, hr]
  rfl

/-- An answer the environment cannot give leaves the driver alone (log 8, log 9). -/
theorem exec_i2cComplete_of_not_enabled {a : Answer} {s : State}
    (h : ¬ ((s.i2c.hd.phase = .active ∧ s.i2c.hd.done = false) ∧ answerFits s.i2c.txn a = true ∧
      (answerResult a).isSome = true)) : exec (.i2cComplete a) s = .next s :=
  congrArg Host.Outcome.next (if_neg (mt (i2cCompleteEnabled_iff a s).1 h))

theorem answerFits_ack (x : Txn) (rbytes : List Byte) :
    answerFits (some x) (.ack rbytes) = true ↔ rbytes.length = x.rlen := beq_iff_eq

/-- Settles O33: each answer by its result, enabled where it fits. -/
theorem i2cCompletePublishesTheAnswer : Obligations.I2cCompletePublishesTheAnswer := by
  refine fun s x => ⟨fun ha hd htxn => ⟨fun rbytes hlen => ?_, fun rbytes hlen => ?_, ?_, ?_⟩, ?_, fun a h => ?_⟩
  · exact exec_i2cComplete_of_fits ha hd (by rw [htxn, answerFits_ack, hlen]) rfl
  · exact exec_i2cComplete_of_not_enabled fun h => hlen ((answerFits_ack x rbytes).1 (htxn ▸ h.2.1))
  · exact exec_i2cComplete_of_fits ha hd rfl rfl
  · exact exec_i2cComplete_of_fits ha hd rfl rfl
  · exact exec_i2cComplete_of_not_enabled fun h => by simp [answerResult] at h
  · exact exec_i2cComplete_of_not_enabled fun hn => h hn.1

/-! ### R145, R232 and R247: the handlers -/

/-- A wait after the generic handler ends as without it: the handler touched only what the wait clears. -/
theorem exec_wait_after_handler {p : Periph} {s : State} {w : Instr} (hw : (p, w) ∈ waitInstrs)
    (ha : (s.handle p).phase = .active) (hd : (s.handle p).done = true) : exec w (genericHandler p s) = exec w s := by
  have hsame : (genericHandler p s).handle p = { s.handle p with inten := false } := State.handle_setHandle_same s p _
  simp only [waitInstrs, List.mem_cons, Prod.mk.injEq, List.not_mem_nil, or_false] at hw
  obtain ⟨rfl, rfl⟩ | ⟨rfl, rfl⟩ | ⟨rfl, rfl⟩ | ⟨rfl, rfl⟩ := hw
  · rw [exec_timerWait_of_done ha hd, exec_timerWait_of_done (s := genericHandler .timer s) ha hd]; rfl
  · rw [exec_rtcWait_of_done ha hd, exec_rtcWait_of_done (s := genericHandler .rtc s) ha hd]; rfl
  · rw [exec_i2cWait_of_done ha hd, exec_i2cWait_of_done (s := genericHandler .i2c s) ha hd]; rfl
  · rw [exec_rngWait_of_done ha hd, exec_rngWait_of_done (s := genericHandler .rng s) ha hd]; rfl

theorem exec_irqOf_of_high {p : Periph} {s : State} (hd : (s.handle p).done = true) (hi : (s.handle p).inten = true) :
    exec (irqOf p) s = .next (genericHandler p s) := by
  have hline : irqLine p s = true := by simp [irqLine, hd, hi]
  cases p <;> exact congrArg Host.Outcome.next (if_pos hline)

theorem exec_irqOf_of_low {p : Periph} {s : State} (h : ¬ ((s.handle p).done = true ∧ (s.handle p).inten = true)) :
    exec (irqOf p) s = .next s := by
  have hline : ¬ irqLine p s = true := by simpa [irqLine] using h
  cases p <;> exact congrArg Host.Outcome.next (if_neg hline)

/-- Settles O35: the handler by `exec_irqOf_of_high`, the low line by `exec_irqOf_of_low`, the later wait by
`exec_wait_after_handler`. -/
theorem genericHandlersOnlyClearTheirEnable : Obligations.GenericHandlersOnlyClearTheirEnable := by
  refine fun s => ⟨exec_irqOf_of_high (p := .timer), exec_irqOf_of_high (p := .rtc), exec_irqOf_of_high (p := .rng),
    exec_irqOf_of_high (p := .i2c), fun p i w h => ?_⟩
  have hi : i = irqOf p ∧ (p, w) ∈ waitInstrs := by
    simp only [List.mem_cons, Prod.mk.injEq, List.not_mem_nil, or_false] at h
    obtain ⟨rfl, rfl, rfl⟩ | ⟨rfl, rfl, rfl⟩ | ⟨rfl, rfl, rfl⟩ | ⟨rfl, rfl, rfl⟩ := h <;> simp [irqOf, waitInstrs]
  obtain ⟨rfl, hw⟩ := hi
  refine ⟨exec_irqOf_of_low, fun t ht ha hd => ?_⟩
  by_cases hinten : (s.handle p).inten = true
  · cases (exec_irqOf_of_high hd hinten).symm.trans ht
    exact exec_wait_after_handler hw ha hd
  · cases (exec_irqOf_of_low fun h => hinten h.2).symm.trans ht
    rfl

theorem radioLine_cfg_iff (c : RadioCfg) (s : State) :
    (radioLine s && s.radio.cfg == c) = true ↔
      s.radio.ev.disabled = true ∧ s.radio.inten = true ∧ s.radio.cfg = c := by
  simp [radioLine, and_assoc]

theorem latch_eq (ev : Events) :
    ev.latch = if ev.payload = true ∧ ev.crcok = true ∧ ev.address = true then .rxGood else .rxBad := by
  simp [Events.latch, Events.good, and_assoc]

/-- The receive handler in one piece (44_radio.md R247). -/
theorem radioRxHandler_eq (s : State) :
    radioRxHandler s =
      { s with
        radio :=
          { s.radio with
            rxLatch := s.radio.ev.latch, ev := Events.clear, pktptr := .toBuf, inten := true, dir := .rx,
            state := .ready },
        mode := if s.mode = .sleeping then .running else s.mode } := by
  unfold radioRxHandler wake
  by_cases h : s.mode = .sleeping
  · simp [h, armRadio_eq, State.setRadio, State.setMode]
  · simp [h, armRadio_eq, State.setRadio]

/-- Settles O36: enabled by `radioLine_cfg_iff`; the receive handler is `radioRxHandler_eq`. -/
theorem radioHandlersClearOrRearm : Obligations.RadioHandlersClearOrRearm := by
  refine fun s => ⟨fun hev hinten hcfg => ?_, fun h => ?_, fun hev hinten hcfg => ?_, fun h => ?_⟩
  · exact congrArg Host.Outcome.next (if_pos ((radioLine_cfg_iff .txCfg s).2 ⟨hev, hinten, hcfg⟩))
  · exact congrArg Host.Outcome.next (if_neg (mt (radioLine_cfg_iff .txCfg s).1 h))
  · refine congrArg Host.Outcome.next ((if_pos ((radioLine_cfg_iff .rxCfg s).2 ⟨hev, hinten, hcfg⟩)).trans ?_)
    rw [radioRxHandler_eq, latch_eq]
    rfl
  · exact congrArg Host.Outcome.next (if_neg (mt (radioLine_cfg_iff .rxCfg s).1 h))

/-! ### R129, R319 and R326: the pseudo-operations -/

/-- Settles O57: the flag chooses between the answer and the next read, the latch between the answer and the hold. -/
theorem hostWaitsForTheRadio : Obligations.HostWaitsForTheRadio :=
  fun _ => ⟨fun h => congrArg Host.Outcome.next (if_pos h), fun h => congrArg Host.Outcome.next (if_neg (by simp [h])),
    fun h => congrArg Host.Outcome.next (if_neg h), fun h => congrArg Host.Outcome.next (if_pos h)⟩

/-- When a blocking call is accepted and what it answers: its start, with its wait put before the host's tasks. -/
theorem blockingBegin_ok_iff (c : BlockingCall) (s t : State) :
    blockingBegin c s = .ok t ↔
      ∃ u, blockingStart c s = .ok u ∧ t = u.pushTasks [.op (blockingWait c)] := by
  unfold blockingBegin
  cases blockingStart c s with
  | ok u => simp [eq_comm]
  | error why => simp

theorem exec_blocking (c : BlockingCall) (s : State) : exec (.blocking c) s = .next (settle s (blockingBegin c s)) := rfl

/-- A blocking call whose start is accepted exactly under `P`, with the effect `e`. -/
theorem exec_blocking_of_ok_iff {c : BlockingCall} {s e : State} {P : Prop}
    (h : ∀ u, blockingStart c s = .ok u ↔ P ∧ u = e) :
    (P → exec (.blocking c) s = .next (e.pushTasks [.op (blockingWait c)])) ∧
      (¬ P → ∃ why, exec (.blocking c) s =
        .next { s with refused := true, host := { s.host with result := .refused why } }) := by
  have hbegin (t : State) : blockingBegin c s = .ok t ↔ P ∧ t = e.pushTasks [.op (blockingWait c)] := by
    rw [blockingBegin_ok_iff]
    constructor
    · rintro ⟨u, hu, rfl⟩
      obtain ⟨hP, rfl⟩ := (h u).1 hu
      exact ⟨hP, rfl⟩
    · rintro ⟨hP, rfl⟩
      exact ⟨e, (h e).2 ⟨hP, rfl⟩, rfl⟩
  rw [exec_blocking]
  obtain ⟨haccepted, hrefused⟩ := settle_of_ok_iff hbegin
  exact ⟨fun hP => congrArg Host.Outcome.next (haccepted hP),
    fun hP => (hrefused hP).imp fun _ => congrArg Host.Outcome.next⟩

theorem blockingStart_timer_ok_iff (ticks : BitVec 32) (s u : State) :
    blockingStart (.timer ticks) s = .ok u ↔
      (s.timer.hd.phase = .idle ∧ 1 ≤ ticks.toNat ∧ ticks.toNat < 2 ^ s.par.timerWidth) ∧
        u =
          { s with
            timer :=
              { hd := { s.timer.hd with inten := true, phase := .active }, counter := 0, target := ticks.toNat,
                running := true },
            host := { s.host with result := .ok .unit } } := by
  rw [and_assoc, and_assoc]
  exact timerStart_ok_iff ticks s u

theorem blockingStart_rtc_ok_iff (compare : BitVec 32) (s u : State) :
    blockingStart (.rtc compare) s = .ok u ↔
      (s.rtc.hd.phase = .idle ∧ compare.toNat < 2 ^ s.par.rtcWidth) ∧
        u =
          { s with
            rtc :=
              { hd := { s.rtc.hd with inten := true, phase := .active }, counter := 0, compare := compare.toNat,
                running := true },
            host := { s.host with result := .ok .unit } } := by
  rw [and_assoc]
  exact rtcStart_ok_iff compare s u

theorem blockingStart_i2c_ok_iff (addr : Byte) (wdata : List Byte) (rlen : Byte) (s u : State) :
    blockingStart (.i2c addr wdata rlen) s = .ok u ↔
      (s.i2c.hd.phase = .idle ∧ s.i2c.enabled = true ∧ addr.toNat < 128 ∧ wdata.length ≤ 255 ∧
        1 ≤ wdata.length + rlen.toNat) ∧
        u =
          { s with
            i2c :=
              { s.i2c with
                hd := { s.i2c.hd with inten := true, phase := .active },
                txn := some { addr := BitVec.ofNat 7 addr.toNat, wdata := wdata, rlen := rlen.toNat }, rdata := [],
                err := .noError },
            host := { s.host with result := .ok .unit } } := by
  rw [← txnOk_iff, and_assoc, and_assoc, BitVec.ofNat_toNat]
  exact i2cStart_ok_iff addr wdata rlen s u

theorem blockingStart_rng_ok_iff (s u : State) :
    blockingStart .rng s = .ok u ↔
      s.rng.hd.phase = .idle ∧
        u =
          { s with
            rng := { s.rng with hd := { s.rng.hd with inten := true, phase := .active } },
            host := { s.host with result := .ok .unit } } := rngStart_ok_iff s u

/-- Settles O58: for each peripheral, `exec_blocking_of_ok_iff` with what its start answers. -/
theorem blockingStartsThenWaits : Obligations.BlockingStartsThenWaits := by
  intro s ticks compare addr rlen wdata
  refine ⟨fun hidle hlow hhigh => ?_, fun hidle hhigh => ?_, fun hidle => ?_, fun hidle hen haddr hw hlen => ?_,
    fun c hc => ?_⟩
  · exact (exec_blocking_of_ok_iff (blockingStart_timer_ok_iff ticks s)).1 ⟨hidle, hlow, hhigh⟩
  · exact (exec_blocking_of_ok_iff (blockingStart_rtc_ok_iff compare s)).1 ⟨hidle, hhigh⟩
  · exact (exec_blocking_of_ok_iff (blockingStart_rng_ok_iff s)).1 hidle
  · exact (exec_blocking_of_ok_iff (blockingStart_i2c_ok_iff addr wdata rlen s)).1 ⟨hidle, hen, haddr, hw, hlen⟩
  · cases c with
    | timer n => exact (exec_blocking_of_ok_iff (blockingStart_timer_ok_iff n s)).2 hc
    | rtc n => exact (exec_blocking_of_ok_iff (blockingStart_rtc_ok_iff n s)).2 hc
    | rng => exact (exec_blocking_of_ok_iff (blockingStart_rng_ok_iff s)).2 hc
    | i2c a w r => exact (exec_blocking_of_ok_iff (blockingStart_i2c_ok_iff a w r s)).2 hc

/-! ### R313 to R328: the sequences of the node and the gateway -/

/-- Settles O59: the host goes on with its assemble task, which takes the present index and leaves the next one. -/
theorem assemblingUsesThenIncrements : Obligations.AssemblingUsesThenIncrements := by
  intro s ts ty x f rest r hturns hmode htodo hr
  have hseq : BitVec.ofNat 32 ((s.seq.toNat + 1) % 2 ^ 32) = s.seq + 1 :=
    BitVec.eq_of_toNat_eq (by simp [BitVec.toNat_add])
  rw [step_eq_runTask hturns hmode htodo, hr, hseq]
  rfl

/-- An unhandled failure halts the device (46_host_sequences.md R315). -/
theorem haltOnFailure_of_halts {s : State} {e : Failure} (hr : s.host.result = .err e) (he : e.halts = true) :
    haltOnFailure s = s.setMode .halted := by
  rw [haltOnFailure, hr]
  exact if_pos he

/-- The failures the reference host does not handle. -/
theorem halts_of_mem {e : Failure} (h : e ∈ [Failure.i2cNack, .i2cBus, .sensorTimeout, .sensorCrc]) :
    e.halts = true := by
  simp only [List.mem_cons, List.not_mem_nil, or_false] at h
  obtain rfl | rfl | rfl | rfl := h <;> rfl

/-- A sensor driver's report is its failure, or none. -/
theorem sensorReport_eq {f : Option SensorFault} {e : Result}
    (h : (f, e) ∈ [(some SensorFault.timeout, Result.err .sensorTimeout), (some .crc, .err .sensorCrc), (none, .ok .unit)])
    (s : State) : sensorReport f s = s.setResult e := by
  simp only [List.mem_cons, Prod.mk.injEq, List.not_mem_nil, or_false] at h
  obtain ⟨rfl, rfl⟩ | ⟨rfl, rfl⟩ | ⟨rfl, rfl⟩ := h <;> rfl

/-- A pass takes the inputs supplied for it, or a free value when there are none (log 28, log 31). -/
theorem nextInputs_eq {h : HostSide} {c : CycleInputs} {cs : List CycleInputs} {n : Nat}
    (hc : (h.inputs = c :: cs ∧ n = h.passes) ∨
      (h.inputs = [] ∧ cs = [] ∧ c = Config.passInputs h.passes ∧ n = h.passes + 1)) :
    nextInputs h = (c, { h with inputs := cs, passes := n }) := by
  obtain ⟨hin, rfl⟩ | ⟨hin, rfl, rfl, rfl⟩ := hc
  · simp only [nextInputs, hin]
  · simp only [nextInputs, hin]

/-- The node takes a pass's inputs and goes on with the pass (46_host_sequences.md R313). -/
theorem nodeSample_eq {s : State} {c : CycleInputs} {cs : List CycleInputs} {n : Nat}
    (hc : (s.host.inputs = c :: cs ∧ n = s.host.passes) ∨
      (s.host.inputs = [] ∧ cs = [] ∧ c = Config.passInputs s.host.passes ∧ n = s.host.passes + 1)) :
    nodeSample s = (s.setHost { s.host with inputs := cs, passes := n }).pushTasks (nodePass c) := by
  unfold nodeSample
  rw [nextInputs_eq hc]

/-- The record that is assembled is encoded as the build says (46_host_sequences.md R313, 45_codec.md R279). -/
theorem encodeRecord_eq {s : State} {r : Record} (h : s.host.record = some r) :
    encodeRecord s = exec (if s.par.secureBuild = true then .codecEncodeEnc r else .codecEncodePlain r) s := by
  rw [encodeRecord, h]
  dsimp only
  split <;> rfl

/-- Only a good reception is looked at (46_host_sequences.md R325). -/
theorem gatewayCheck_eq {s : State} {latch : RxLatch} {rssi : Rssi}
    (h : s.host.result = .ok (.reception latch rssi)) :
    gatewayCheck s =
      s.setHost
        (if latch = .rxGood then
          { s.host with todo := .op .radioPayload :: .gatewayView :: s.host.todo, rssi := rssi }
        else s.host) := by
  rw [gatewayCheck, h]
  cases latch <;> rfl

/-- Only a payload there is a view of is decoded (46_host_sequences.md R325). -/
theorem gatewayView_eq {s : State} {v : Option (Nat × Nat)} (h : s.host.result = .ok (.view v)) :
    gatewayView s =
      s.setTasks (if v = none then s.host.todo else .op (.codecDecode .view) :: .gatewayForward :: s.host.todo) := by
  rw [gatewayView, h]
  cases v <;> rfl

/-- A decoded record is forwarded with the signal strength (46_host_sequences.md R325, 45_codec.md R288). -/
theorem gatewayForward_of_record {s : State} {r : Record} (h : s.host.result = .ok (.record r)) :
    gatewayForward s = s.setHost { s.host with forwarded := s.host.forwarded ++ [forwardedOf r s.host.rssi] } := by
  rw [gatewayForward, h]

/-- A failed packet is discarded (46_host_sequences.md R328). -/
theorem gatewayForward_of_failure {s : State} {e : Failure} (h : s.host.result = .err e) : gatewayForward s = s := by
  rw [gatewayForward, h]

/-- Settles O60: each turn of the host is its task, `step_eq_runTask`, and each task's rule is above; that nothing else
forwards is `step_forwarded`. -/
theorem unhandledFailureHaltsAndLowBatteryIsFailDead : Obligations.UnhandledFailureHaltsAndLowBatteryIsFailDead := by
  refine ⟨fun s ts rest hturns hmode => ?_, fun s t => step_forwarded⟩
  have turn {x : Task} (htodo : s.host.todo = x :: rest) := step_eq_runTask hturns hmode htodo
  have next {u v : State} (h : u = v) : (Host.Outcome.next u : Out) = .next v := congrArg Host.Outcome.next h
  refine ⟨fun e htodo hres he => ?_, fun f e htodo hf => ?_, fun v htodo hlow => ?_, fun v htodo hok => ?_,
    fun htodo => turn htodo, fun htodo => turn htodo, fun c cs n htodo hc => ?_, fun htodo => turn htodo,
    fun r htodo hrec => ?_, fun htodo => turn htodo, fun latch rssi htodo hres => ?_, fun v htodo hres => ?_,
    fun r htodo hres => ?_, fun e htodo hres => ?_⟩
  · exact (turn htodo).trans (next (haltOnFailure_of_halts (s := (s.setTurns ts).setTasks rest) hres (halts_of_mem he)))
  · exact (turn htodo).trans (next (sensorReport_eq hf _))
  · exact (turn htodo).trans (next (if_pos hlow))
  · exact (turn htodo).trans (next (if_neg (not_lt.2 hok)))
  · exact (turn htodo).trans (next (nodeSample_eq (s := (s.setTurns ts).setTasks rest) hc))
  · exact (turn htodo).trans (encodeRecord_eq (s := (s.setTurns ts).setTasks rest) hrec)
  · exact (turn htodo).trans (next (gatewayCheck_eq (s := (s.setTurns ts).setTasks rest) hres))
  · exact (turn htodo).trans (next (gatewayView_eq (s := (s.setTurns ts).setTasks rest) hres))
  · exact (turn htodo).trans (next (gatewayForward_of_record (s := (s.setTurns ts).setTasks rest) hres))
  · exact (turn htodo).trans (next (gatewayForward_of_failure (s := (s.setTurns ts).setTasks rest) hres))

end Sys2Proof.Machine
end

section
/-! ## Proofs: the radio's readers, its agent and the air (44_radio.md sections 4 and 6)

Each step of the RADIO agent is enabled by one condition and then is one update; the statements split on the condition and
write the update out. A reception is the store step repeated, and two radios with the same parameters compute the same
CRC. -/

namespace Sys2Proof.Machine

/-! ### R249, R251 and R252: the readers -/

/-- Flag `k` is the `k`-th of the flags in their order (30_encoding.md R126). -/
theorem Events.get?_eq_getElem? (ev : Events) (k : Nat) :
    ev.get? k =
      [ev.ready, ev.address, ev.addrmiss, ev.payload, ev.crcok, ev.crcerror, ev.ended, ev.disabled][k]? := by
  unfold Events.get?
  split <;> simp_all
  omega

theorem exec_radioEventRead (k : Byte) (s : State) :
    exec (.radioEventRead k) s = .next (settle s (radioEventRead k s)) := rfl

/-- A flag index above 7 is refused (44_radio.md R249). -/
theorem radioEventRead_of_lt {k : Byte} (h : 7 < k.toNat) (s : State) : radioEventRead k s = .error .flagIndex := by
  have hnone : s.radio.ev.get? k.toNat = none := by
    rw [Events.get?_eq_getElem?]
    exact List.getElem?_eq_none h
  simp only [radioEventRead, hnone]

/-- The view is the bytes behind the length byte, or none for a zero length byte (44_radio.md R252). -/
theorem exec_radioPayload (s : State) :
    exec .radioPayload s =
      .next
        { s with
          host :=
            { s.host with
              view := if s.byteAt .buf 0 = 0x00#8 then none else some (1, (s.byteAt .buf 0).toNat - 1),
              result :=
                .ok (.view (if s.byteAt .buf 0 = 0x00#8 then none else some (1, (s.byteAt .buf 0).toNat - 1))) } } := rfl

/-- Settles O40: the flags are the list's, `Events.get?_eq_getElem?`; the other two readers are one update each. -/
theorem radioReadersReturnTheState : Obligations.RadioReadersReturnTheState := by
  refine fun bs k s => ⟨rfl, rfl, rfl, exec_radioPayload s, fun b hb => ?_, fun hk => ?_, rfl⟩
  · rw [← Events.get?_eq_getElem?] at hb
    rw [exec_radioEventRead, (radioEventRead_ok_iff k s _).2 ⟨b, hb, rfl⟩, settle_ok]
  · rw [exec_radioEventRead, settle_of_error (radioEventRead_of_lt hk s)]

/-! ### R226 and R228: the ramp and the start task -/

theorem startTask_of_tx {s : State} (h : s.radio.dir = .tx) :
    startTask s = s.setRadio { s.radio with txProg := some (capturedFrame s), state := .tx } := by
  rw [startTask, h]

theorem startTask_of_rx {s : State} (h : s.radio.dir = .rx) :
    startTask s = s.setRadio { s.radio with rxProg := none, state := .rx } := by
  rw [startTask, h]

theorem exec_radioRamp_of_start {s : State} (hready : s.radio.state = .ready) (hclk : s.hfclk = true)
    (hshort : s.radio.shorts.readyStart = true) :
    exec .radioRamp s = .next (startTask (s.setEvents { s.radio.ev with ready := true })) :=
  congrArg Host.Outcome.next ((if_pos ((rampEnabled_iff s).2 ⟨hready, hclk⟩)).trans (if_pos hshort))

theorem exec_radioRamp_of_no_start {s : State} (hready : s.radio.state = .ready) (hclk : s.hfclk = true)
    (hshort : s.radio.shorts.readyStart = false) :
    exec .radioRamp s = .next (s.setEvents { s.radio.ev with ready := true }) :=
  congrArg Host.Outcome.next ((if_pos ((rampEnabled_iff s).2 ⟨hready, hclk⟩)).trans (if_neg (by simp [hshort])))

theorem shortStartEnabled_iff (s : State) :
    (rampEnabled s && s.radio.ev.ready && s.radio.shorts.readyStart) = true ↔
      (s.radio.state = .ready ∧ s.hfclk = true) ∧ s.radio.ev.ready = true ∧ s.radio.shorts.readyStart = true := by
  rw [Bool.and_eq_true, Bool.and_eq_true, rampEnabled_iff, and_assoc]

theorem exec_radioShortStart_of_enabled {s : State} (hready : s.radio.state = .ready) (hclk : s.hfclk = true)
    (hev : s.radio.ev.ready = true) (hshort : s.radio.shorts.readyStart = true) :
    exec .radioShortStart s = .next (startTask s) :=
  congrArg Host.Outcome.next (if_pos ((shortStartEnabled_iff s).2 ⟨⟨hready, hclk⟩, hev, hshort⟩))

theorem exec_radioShortStart_of_not_enabled {s : State}
    (h : ¬ ((s.radio.state = .ready ∧ s.hfclk = true) ∧ s.radio.ev.ready = true ∧ s.radio.shorts.readyStart = true)) :
    exec .radioShortStart s = .next s :=
  congrArg Host.Outcome.next (if_neg (mt (shortStartEnabled_iff s).1 h))

/-- The covered bytes in one piece: the address bytes, if they are covered, and the body (30_encoding.md R120). -/
theorem covered_eq (s : State) (a : Address) (body : List Byte) :
    covered s a body = (if s.par.crcCoversAddress then a.pfx :: a.base.toList else []) ++ body := by
  unfold covered
  split <;> rfl

/-- The captured frame has the radio's address, the body that stands in `BUF`, and its CRC (44_radio.md R228). -/
theorem capturedFrame_eq {s : State} {body cov : List Byte}
    (hbody : body = (List.range (max (s.byteAt .buf 0).toNat 1)).map (fun j => s.byteAt .buf j))
    (hcov : cov = (if s.par.crcCoversAddress then s.radio.conf.addr.pfx :: s.radio.conf.addr.base.toList else []) ++ body) :
    capturedFrame s =
      { addr := s.radio.conf.addr, body := body,
        crc := crc24 s.par.bitOrder s.radio.conf.crcPoly s.radio.conf.crcInit cov } := by
  have htx : txBody s = body := by
    rw [hbody, txBody, State.memRead]
    simp only [Nat.zero_add]
  rw [capturedFrame, htx, frameCrc, covered_eq, ← hcov]

/-- Settles O43: the enabled steps by direction and shortcut; the captured frame is `capturedFrame_eq`. -/
theorem radioRampCapturesOrListens : Obligations.RadioRampCapturesOrListens := by
  intro s body cov f hbody hcov hf
  have hcapture : capturedFrame s = f := (capturedFrame_eq hbody hcov).trans hf.symm
  refine ⟨fun hready hclk hshort hdir => ⟨?_, fun hev => ?_⟩, fun hready hclk hshort hdir => ⟨?_, fun hev => ?_⟩,
    exec_radioRamp_of_no_start, fun h => exec_radioShortStart_of_not_enabled ?_, fun h => ⟨?_, ?_⟩⟩
  · rw [exec_radioRamp_of_start hready hclk hshort, startTask_of_tx (by exact hdir), ← hcapture]
    rfl
  · rw [exec_radioShortStart_of_enabled hready hclk hev hshort, startTask_of_tx hdir, hcapture]
    rfl
  · rw [exec_radioRamp_of_start hready hclk hshort, startTask_of_rx (by exact hdir)]
    rfl
  · rw [exec_radioShortStart_of_enabled hready hclk hev hshort, startTask_of_rx hdir]
    rfl
  · rintro ⟨-, hev, hshort⟩
    obtain h | h := h
    · rw [hev] at h; cases h
    · rw [hshort] at h; cases h
  · exact congrArg Host.Outcome.next (if_neg (mt (rampEnabled_iff s).1 h))
  · exact exec_radioShortStart_of_not_enabled fun he => h he.1

/-! ### R229: the end of a transmission -/

theorem chainDisable_of_set {s : State} (h : s.radio.shorts.endDisable = true) : chainDisable s = shortDisable s :=
  if_pos h

theorem chainDisable_of_clear {s : State} (h : s.radio.shorts.endDisable = false) : chainDisable s = s :=
  if_neg (by simp [h])

theorem shortDisableEnabled_iff (s : State) :
    (onAir s && s.radio.ev.ended) = true ↔
      (s.radio.state = .tx ∨ s.radio.state = .rx) ∧ s.radio.ev.ended = true := by
  simp [onAir]

theorem exec_radioShortDisable_of_enabled {s : State} (hstate : s.radio.state = .tx ∨ s.radio.state = .rx)
    (hev : s.radio.ev.ended = true) : exec .radioShortDisable s = .next (chainDisable s) :=
  congrArg Host.Outcome.next (if_pos ((shortDisableEnabled_iff s).2 ⟨hstate, hev⟩))

theorem exec_radioShortDisable_of_not_enabled {s : State}
    (h : ¬ ((s.radio.state = .tx ∨ s.radio.state = .rx) ∧ s.radio.ev.ended = true)) :
    exec .radioShortDisable s = .next s :=
  congrArg Host.Outcome.next (if_neg (mt (shortDisableEnabled_iff s).1 h))

/-- With the shortcut clear the chained part does nothing, enabled or not. -/
theorem exec_radioShortDisable_of_clear {s : State} (h : s.radio.shorts.endDisable = false) :
    exec .radioShortDisable s = .next s := by
  refine congrArg Host.Outcome.next ?_
  rw [chainDisable_of_clear h, ite_self]

theorem exec_radioTxEnd_of_tx {s : State} (h : s.radio.state = .tx) : exec .radioTxEnd s = .next (radioTxEnd s) :=
  congrArg Host.Outcome.next (if_pos h)

/-- Settles O44: the emission, then the shortcut set or clear. -/
theorem radioTxEndEmitsTheFrame : Obligations.RadioTxEndEmitsTheFrame := by
  refine fun s => ⟨fun htx hshort => ?_, fun htx hshort => ?_, fun h => congrArg Host.Outcome.next (if_neg h),
    fun h => ?_, fun hstate hshort hev => ?_, fun htx hrx => ?_⟩
  · exact (exec_radioTxEnd_of_tx htx).trans (congrArg Host.Outcome.next (chainDisable_of_set hshort))
  · exact (exec_radioTxEnd_of_tx htx).trans (congrArg Host.Outcome.next (chainDisable_of_clear hshort))
  · obtain hev | hshort := h
    · exact exec_radioShortDisable_of_not_enabled fun he => by simp [hev] at he
    · exact exec_radioShortDisable_of_clear hshort
  · rw [exec_radioShortDisable_of_enabled hstate hev, chainDisable_of_set hshort]
    rfl
  · exact exec_radioShortDisable_of_not_enabled fun he => he.1.elim htx hrx

/-! ### R235, R236 and R230: a frame offered, delivered or dropped -/

theorem listening_iff (s : State) : listening s = true ↔ s.radio.state = .rx ∧ s.radio.rxProg = none := by
  simp [listening]

theorem offerEnabled_iff (f : Frame) (s : State) :
    offerEnabled f s = true ↔ s.radio.state = .rx ∧ s.radio.rxProg = none ∧ bodyWf f.body = true := by
  rw [offerEnabled, Bool.and_eq_true, listening_iff, and_assoc]

theorem rxOffer_of_match {f : Frame} {s : State} (h : f.addr = s.radio.conf.addr) (rssi : Rssi) :
    rxOffer f rssi s =
      s.setRadio { s.radio with ev := { s.radio.ev with address := true }, rssi := rssi, rxProg := some (f, 0) } :=
  if_pos h

theorem rxOffer_of_mismatch {f : Frame} {s : State} (h : f.addr ≠ s.radio.conf.addr) (rssi : Rssi) :
    rxOffer f rssi s = s.setEvents { s.radio.ev with addrmiss := true } :=
  if_neg h

/-- Settles O45: offered only to a listening radio, `offerEnabled_iff`, and filtered by the address. -/
theorem radioRxOfferFiltersTheAddress : Obligations.RadioRxOfferFiltersTheAddress := by
  intro f rssi s
  have enabled (hrx : s.radio.state = .rx) (hidle : s.radio.rxProg = none) (hbody : bodyWf f.body = true) :
      exec (.radioRxOffer f rssi) s = .next (rxOffer f rssi s) :=
    congrArg Host.Outcome.next (if_pos ((offerEnabled_iff f s).2 ⟨hrx, hidle, hbody⟩))
  exact ⟨fun hrx hidle hbody h => (enabled hrx hidle hbody).trans (congrArg Host.Outcome.next (rxOffer_of_match h rssi)),
    fun hrx hidle hbody h => (enabled hrx hidle hbody).trans (congrArg Host.Outcome.next (rxOffer_of_mismatch h rssi)),
    fun h => congrArg Host.Outcome.next (if_neg (mt (offerEnabled_iff f s).1 h))⟩

/-- Where the air has no such frame, dropping it changes nothing. -/
theorem dropFrame_of_none {s : State} {n : Nat} (h : s.air[n]? = none) : s.dropFrame n = s := by
  rw [State.dropFrame_eq, List.eraseIdx_of_length_le (List.getElem?_eq_none_iff.1 h)]

theorem exec_envAirDeliver_of_none {s : State} {n : Nat} (h : s.air[n]? = none) (body : List Byte) (crc : BitVec 24)
    (rssi : Rssi) : exec (.envAirDeliver n body crc rssi) s = .next s := by
  refine congrArg Host.Outcome.next ?_
  rw [h]

theorem exec_envAirDeliver_of_some {s : State} {n : Nat} {f : Frame} (h : s.air[n]? = some f) (body : List Byte)
    (crc : BitVec 24) (rssi : Rssi) :
    exec (.envAirDeliver n body crc rssi) s =
      .next (if bodyWf body then receiveFrame (alteredFrame f body crc) rssi (s.dropFrame n) else s) := by
  refine congrArg Host.Outcome.next ?_
  rw [h]

theorem receiveFrame_of_listening {f : Frame} {rssi : Rssi} {s : State} (hrx : s.radio.state = .rx)
    (hidle : s.radio.rxProg = none) : receiveFrame f rssi s = rxOffer f rssi s :=
  if_pos ((listening_iff s).2 ⟨hrx, hidle⟩)

theorem receiveFrame_of_not_listening {f : Frame} {rssi : Rssi} {s : State}
    (h : ¬ (s.radio.state = .rx ∧ s.radio.rxProg = none)) : receiveFrame f rssi s = s :=
  if_neg (mt (listening_iff s).1 h)

/-- Settles O50: the frame leaves the air, and is offered if this radio listens. -/
theorem airDeliversOrDrops : Obligations.AirDeliversOrDrops := by
  intro s n f body crc rssi
  refine ⟨fun hnone => ⟨congrArg Host.Outcome.next (dropFrame_of_none hnone), exec_envAirDeliver_of_none hnone body crc rssi⟩,
    fun hsome => ⟨rfl, fun hbody hrx hidle haddr => ?_, fun hbody hrx hidle haddr => ?_, fun hbody h => ?_,
      fun hbody => ?_⟩⟩
  · rw [exec_envAirDeliver_of_some hsome, if_pos hbody, receiveFrame_of_listening (by exact hrx) (by exact hidle),
      rxOffer_of_match (by exact haddr)]
    rfl
  · rw [exec_envAirDeliver_of_some hsome, if_pos hbody, receiveFrame_of_listening (by exact hrx) (by exact hidle),
      rxOffer_of_mismatch (by exact haddr)]
    rfl
  · rw [exec_envAirDeliver_of_some hsome, if_pos hbody, receiveFrame_of_not_listening (by exact h)]
    rfl
  · rw [exec_envAirDeliver_of_some hsome, if_neg (by simp [hbody])]

/-! ### R237: a body stored byte by byte -/

/-- A pending byte inside `BUF` is stored at its index, and the index moves on. -/
theorem exec_radioRxStore_of_pending {s : State} {f : Frame} {i : Nat} {b : Byte}
    (h : storePending s = some (f, i, b)) (hroom : i < 258) :
    exec .radioRxStore s = .next ((s.memWrite .buf i [b]).setRadio { s.radio with rxProg := some (f, i + 1) }) := by
  change execRadioRxStore s = _
  rw [execRadioRxStore, h]
  exact if_pos hroom

theorem exec_radioRxStore_of_outside {s : State} {f : Frame} {i : Nat} {b : Byte}
    (h : storePending s = some (f, i, b)) (hout : 258 ≤ i) : exec .radioRxStore s = .fault (.outsideStore .buf i) := by
  change execRadioRxStore s = _
  rw [execRadioRxStore, h]
  exact if_neg (not_lt.2 hout)

theorem exec_radioRxStore_of_not_pending {s : State} (h : storePending s = none) : exec .radioRxStore s = .next s := by
  change execRadioRxStore s = _
  rw [execRadioRxStore, h]

theorem storePending_of_lt {s : State} {f : Frame} {i : Nat} (hrx : s.radio.state = .rx)
    (hprog : s.radio.rxProg = some (f, i)) (hi : i < f.body.length) :
    storePending s = some (f, i, f.body.getD i 0x00#8) :=
  (storePending_eq_some_iff s f i _).2 ⟨hrx, hprog, by simp [hi]⟩

theorem storePending_eq_none {s : State} {f : Frame} {i : Nat}
    (h : s.radio.state ≠ .rx ∨ s.radio.rxProg = none ∨ (s.radio.rxProg = some (f, i) ∧ f.body.length ≤ i)) :
    storePending s = none := by
  cases hp : storePending s with
  | none => rfl
  | some x =>
    obtain ⟨g, j, b⟩ := x
    obtain ⟨hrx, hprog, hbyte⟩ := (storePending_eq_some_iff s g j b).1 hp
    obtain hn | hn | ⟨hn, hlen⟩ := h
    · exact absurd hrx hn
    · rw [hprog] at hn; cases hn
    · cases hprog.symm.trans hn
      rw [List.getElem?_eq_none hlen] at hbyte
      cases hbyte

/-- Writing the radio leaves every store. -/
@[simp] theorem State.byteAt_setRadio (s : State) (x : Radio) (st : Store) (a : Nat) :
    (s.setRadio x).byteAt st a = s.byteAt st a := by cases st <;> rfl

/-- One byte written to `BUF`, and every other as before. -/
theorem State.byteAt_memWrite_single (s : State) (i : Nat) (b : Byte) (a : Nat) :
    (s.memWrite .buf i [b]).byteAt .buf a = if a = i then b else s.byteAt .buf a := by
  rw [State.byteAt_memWrite]
  by_cases ha : a = i
  · subst ha; simp
  · rw [if_neg ha, if_neg (by simp only [List.length_singleton]; omega)]

/-- Settles O46: pending by `storePending_of_lt`, and nothing pending by `storePending_eq_none`. -/
theorem radioRxStoreStoresOneByte : Obligations.RadioRxStoreStoresOneByte := by
  refine fun s f i => ⟨fun hrx hprog hi hroom => ?_, fun hrx hprog hi hout => ?_, fun h => ?_⟩
  · refine ⟨_, exec_radioRxStore_of_pending (storePending_of_lt hrx hprog hi) hroom, rfl, fun a => ?_⟩
    rw [State.byteAt_setRadio, State.byteAt_memWrite_single]
  · exact exec_radioRxStore_of_outside (storePending_of_lt hrx hprog hi) hout
  · exact exec_radioRxStore_of_not_pending (storePending_eq_none h)

/-! ### R238 and R239: the end of a reception -/

/-- The CRC check compares the frame's CRC with the one computed over the covered bytes (44_radio.md R239). -/
theorem crcPasses_eq (s : State) (f : Frame) :
    crcPasses s f =
      decide
        (f.crc =
          crc24 s.par.bitOrder s.radio.conf.crcPoly s.radio.conf.crcInit
            ((if s.par.crcCoversAddress then f.addr.pfx :: f.addr.base.toList else []) ++ f.body)) := by
  rw [← covered_eq]
  rfl

/-- The flags at the end of a reception: the CRC check sets one of its two flags and leaves the other. -/
theorem Events.received_eq (ev : Events) (pass : Bool) :
    ev.received pass =
      { ev with
        payload := true, ended := true, crcok := ev.crcok || pass, crcerror := ev.crcerror || !pass } := by
  cases pass <;> simp [Events.received]

/-- The end task, then the shortcut, in one update (44_radio.md R238, R224). -/
theorem rxEnd_eq (f : Frame) (tail : List Byte) (s : State) :
    rxEnd f tail s =
      { s.memWrite .buf f.body.length tail with
        radio :=
          { s.radio with
            rxProg := none, state := if s.radio.shorts.endDisable then .disabled else s.radio.state,
            ev :=
              { s.radio.ev with
                payload := true, ended := true, disabled := s.radio.ev.disabled || s.radio.shorts.endDisable,
                crcok := s.radio.ev.crcok || crcPasses s f, crcerror := s.radio.ev.crcerror || !crcPasses s f } } } := by
  have hpass : crcPasses (s.memWrite .buf f.body.length tail) f = crcPasses s f := rfl
  rw [rxEnd, Events.received_eq, hpass]
  cases hshort : s.radio.shorts.endDisable with
  | true => rw [chainDisable_of_set (by exact hshort), Bool.or_true]; rfl
  | false => rw [chainDisable_of_clear (by exact hshort), Bool.or_false]; rfl

theorem exec_radioRxEnd_of_pending {s : State} {f : Frame} {tail : List Byte} (hrx : s.radio.state = .rx)
    (hprog : s.radio.rxProg = some (f, f.body.length)) (htail : tail.length = 258 - f.body.length) :
    exec (.radioRxEnd tail) s = .next (rxEnd f tail s) := by
  change execRadioRxEnd tail s = _
  rw [execRadioRxEnd, (endPending_eq_some_iff s f).2 ⟨hrx, hprog⟩]
  exact congrArg Host.Outcome.next (if_pos (beq_iff_eq.2 htail))

/-- Where no whole body is stored, or the draw is of another length, there is no end (log 8, log 9). -/
theorem exec_radioRxEnd_of_not_pending {s : State} {tail : List Byte}
    (h : ∀ f, s.radio.state = .rx → s.radio.rxProg = some (f, f.body.length) → tail.length ≠ 258 - f.body.length) :
    exec (.radioRxEnd tail) s = .next s := by
  change execRadioRxEnd tail s = _
  cases hp : endPending s with
  | none => rw [execRadioRxEnd, hp]
  | some f =>
    obtain ⟨hrx, hprog⟩ := (endPending_eq_some_iff s f).1 hp
    rw [execRadioRxEnd, hp]
    exact congrArg Host.Outcome.next (if_neg (mt beq_iff_eq.1 (h f hrx hprog)))

/-- Settles O47: the end is one update, `rxEnd_eq`, whose write lies behind the body. -/
theorem radioRxEndChecksTheCrc : Obligations.RadioRxEndChecksTheCrc := by
  refine ⟨fun s f tail covered pass hrx hprog hbody htail hcov hpass => ?_, fun s tail => exec_radioRxEnd_of_not_pending⟩
  have hcheck : crcPasses s f = pass := by rw [crcPasses_eq, ← hcov, hpass]
  refine ⟨_, exec_radioRxEnd_of_pending hrx hprog htail, ?_, fun a => ?_⟩
  · rw [rxEnd_eq, hcheck, hrx]
    rfl
  · have hbuf : (rxEnd f tail s).byteAt .buf a = (s.memWrite .buf f.body.length tail).byteAt .buf a := by
      rw [rxEnd_eq]
      rfl
    rw [hbuf, State.byteAt_memWrite, htail, Nat.add_sub_cancel' hbody]
    simp only [true_and]

/-! ### R237 repeated: a whole body -/

/-- One store turn of a reception. -/
theorem step_radioRxStore {s : State} {f : Frame} {i : Nat} {ts : List Turn} (ht : s.turns = .agent .radioRxStore :: ts)
    (hrx : s.radio.state = .rx) (hprog : s.radio.rxProg = some (f, i)) (hi : i < f.body.length) (hroom : i < 258) :
    step s =
      .next
        (((s.setTurns ts).memWrite .buf i [f.body.getD i 0x00#8]).setRadio { s.radio with rxProg := some (f, i + 1) }) :=
  (step_eq_exec ht rfl nofun).trans
    (exec_radioRxStore_of_pending (s := s.setTurns ts) (storePending_of_lt hrx hprog hi) hroom)

/-- `m` store turns from index `i` store the `m` body bytes from there on, each at its own index. -/
theorem run_radioRxStores {m i : Nat} {s : State} {f : Frame} {ts : List Turn}
    (ht : s.turns = List.replicate m (.agent .radioRxStore) ++ ts) (hrx : s.radio.state = .rx)
    (hprog : s.radio.rxProg = some (f, i)) (hi : i + m ≤ f.body.length) (hroom : f.body.length ≤ 258) :
    ∃ t, Host.Core.run Sys2Proof.core m s = .next t ∧
      t = { s with buf := t.buf, turns := ts, radio := { s.radio with rxProg := some (f, i + m) } } ∧
      ∀ a, t.byteAt .buf a = if i ≤ a ∧ a < i + m then f.body.getD a 0x00#8 else s.byteAt .buf a := by
  induction m generalizing s i with
  | zero =>
    refine ⟨s, rfl, ?_, fun a => (if_neg (by omega)).symm⟩
    rw [Nat.add_zero, ← hprog, show ts = s.turns from ht.symm]
  | succ m ih =>
    have hstep := step_radioRxStore (ts := List.replicate m (.agent .radioRxStore) ++ ts) ht hrx hprog (by omega) (by omega)
    obtain ⟨t, hrun, hstate, hbytes⟩ := ih
      (s := ((s.setTurns (List.replicate m (.agent .radioRxStore) ++ ts)).memWrite .buf i [f.body.getD i 0x00#8]).setRadio
        { s.radio with rxProg := some (f, i + 1) })
      rfl hrx rfl (by omega)
    refine ⟨t, (run_succ_of_step hstep m).trans hrun, ?_, fun a => ?_⟩
    · rw [Nat.add_right_comm, Nat.add_assoc] at hstate
      exact hstate
    · have hturns : (s.setTurns (List.replicate m (.agent .radioRxStore) ++ ts)).byteAt .buf a = s.byteAt .buf a := rfl
      rw [hbytes, State.byteAt_setRadio, State.byteAt_memWrite_single, hturns]
      by_cases ha : a = i
      · rw [if_neg (by omega), if_pos ha, if_pos (by omega), ha]
      · rw [if_neg ha]
        exact if_congr (by omega) rfl rfl

/-- Settles O48: `run_radioRxStores` from index 0 over the whole body. -/
theorem receptionStoresTheWholeBody : Obligations.ReceptionStoresTheWholeBody := by
  intro s f ts hrx hprog hbody ht
  obtain ⟨-, hlen⟩ := bodyWf_bounds hbody
  obtain ⟨t, hrun, hstate, hbytes⟩ := run_radioRxStores ht hrx hprog (by omega) (by omega)
  rw [Nat.zero_add] at hstate
  refine ⟨t, hrun, hstate, fun a => ?_⟩
  rw [hbytes]
  by_cases ha : a < f.body.length <;> simp [ha]

/-! ### R239: two radios with the same parameters agree -/

/-- The ramp of a transmission captures the frame of `BUF`, under the radio's own parameters. -/
theorem txProg_of_ramp {s t : State} {f : Frame} (hdir : s.radio.dir = .tx) (hready : s.radio.state = .ready)
    (hshort : s.radio.shorts.readyStart = true) (hclk : s.hfclk = true) (hramp : exec .radioRamp s = .next t)
    (hf : t.radio.txProg = some f) : f = capturedFrame s := by
  rw [exec_radioRamp_of_start hready hclk hshort, startTask_of_tx (by exact hdir)] at hramp
  cases hramp
  exact (Option.some.inj hf).symm

/-- A radio with the parameters of the sender computes the CRC the sender put in. -/
theorem crcPasses_capturedFrame {r s : State} (hconf : r.radio.conf = s.radio.conf)
    (horder : r.par.bitOrder = s.par.bitOrder) (hcovers : r.par.crcCoversAddress = s.par.crcCoversAddress) :
    crcPasses r (capturedFrame s) = true := by
  rw [crcPasses_eq, hconf, horder, hcovers, ← covered_eq]
  exact decide_eq_true rfl

/-- Settles O49: the captured frame passes, `crcPasses_capturedFrame`, so `rxEnd_eq` sets `ev.crcok` alone. -/
theorem unchangedFramePassesTheCrc : Obligations.UnchangedFramePassesTheCrc := by
  intro s t r f tail hdir hready hshort hclk hramp hf hconf horder hcovers hrx hprog htail
  obtain rfl := txProg_of_ramp hdir hready hshort hclk hramp hf
  have hpass := crcPasses_capturedFrame hconf horder hcovers
  refine ⟨_, exec_radioRxEnd_of_pending hrx hprog htail, ?_, ?_⟩
  · rw [rxEnd_eq, hpass]
    exact Bool.or_true _
  · rw [rxEnd_eq, hpass]
    exact Bool.or_false _

end Sys2Proof.Machine
end

section
/-! ## Proofs: the codec (45_codec.md)

The decoder in its branches, `decodeEnc_of_short` to `decodeEnc_of_accepted`, and what each branch leaves in the scratch
buffers. Decoding undoes encoding because a record's bytes parse back, `parse_ser`, and the construction's round trip is a
law of `AE`. -/

namespace Sys2Proof.Machine

/-! ### R276 and R279: the encodes -/

/-- A filled `SIN` is some memory with the header and the content in front. -/
theorem exists_fillScratch_sin (s : State) (content : List Byte) :
    ∃ m, s.fillScratch .sin content = s.setSin m ∧
      ∀ a, (s.setSin m).byteAt .sin a =
        (0x00#8 :: BitVec.ofNat 8 content.length :: 0x00#8 :: content).getD a (s.byteAt .sin a) :=
  ⟨_, rfl, fun a => (State.byteAt_fillScratch s .sin .sin content a).trans (if_pos rfl)⟩

/-- When an encrypted encode is accepted and the state of its first host step, in which `SIN` is filled with the record
(45_codec.md R276). -/
theorem encodeBegin_ok_iff_eq {r : Record} {s : State} {m : Memory} (hm : s.fillScratch .sin (ser r) = s.setSin m)
    (rest : List Task) (t : State) :
    encodeBegin r rest s = .ok t ↔
      (typeFields s.par.typeTable r.type = some r.fields.length ∧ 18 + r.fields.length ≤ 240 ∧
          s.rng.hd.phase = .idle) ∧
        t =
          { s with
            sin := m, rng := { s.rng with hd := { s.rng.hd with inten := true, phase := .active } },
            host := { s.host with result := .ok .unit, todo := nonceTasks ++ (rest ++ s.host.todo) } } := by
  rw [encodeBegin_ok_iff, wellTyped_iff, ser_length, hm, drawNonce_ok_iff, and_assoc, and_assoc, List.append_assoc]
  rfl

/-- Settles O51: accepted and refused by `encodeBegin_ok_iff_eq`, for both operations; the bytes of `SIN` are those of a
filled scratch buffer. -/
theorem encryptedEncodeBegins : Obligations.EncryptedEncodeBegins := by
  intro r s i after hi
  have hexec : exec i s = .next (settle s (encodeBegin r (.encodeFinish r :: after) s)) := by
    simp only [List.mem_cons, Prod.mk.injEq, List.not_mem_nil, or_false] at hi
    obtain ⟨rfl, rfl⟩ | ⟨rfl, rfl⟩ := hi <;> rfl
  obtain ⟨m, hm, hbytes⟩ := exists_fillScratch_sin s (ser r)
  rw [ser_length] at hbytes
  obtain ⟨haccepted, hrefused⟩ := settle_of_ok_iff (s := s) (encodeBegin_ok_iff_eq hm (.encodeFinish r :: after))
  rw [hexec]
  exact ⟨fun h => ⟨_, congrArg Host.Outcome.next (haccepted h), rfl, hbytes⟩,
    fun h => (hrefused h).imp fun _ => congrArg Host.Outcome.next⟩

/-- Settles O53: the record operand is read back; accepted and refused by `encodePlain_ok_iff`. -/
theorem plainEncodeReturnsTagAndRecord : Obligations.PlainEncodeReturnsTagAndRecord := by
  intro r bs s
  have hiff (t : State) :
      encodePlain r s = .ok t ↔
        (typeFields s.par.typeTable r.type = some r.fields.length ∧ 18 + r.fields.length ≤ 252) ∧
          t = s.okStrings [leBytes 2 r.type.toNat, ser r] := by
    rw [encodePlain_ok_iff, wellTyped_iff, ser_length, and_assoc]
    rfl
  obtain ⟨haccepted, hrefused⟩ := settle_of_ok_iff (s := s) hiff
  exact ⟨fun hr => congrArg (decodedAs Instr.codecEncodePlain) (takeRecord_recordBytes hr bs),
    fun h => congrArg Host.Outcome.next (haccepted h), fun h => (hrefused h).imp fun _ => congrArg Host.Outcome.next⟩

/-! ### R282 to R287: the branches of the decoder -/

theorem decodeEnc_of_short {content : List Byte} (h : content.length < 8) (ae : AE) (t : BitVec 15) (s : State) :
    decodeEnc ae t content s = s.raise .malformed :=
  if_pos h

theorem decodeEnc_of_no_tag {content : List Byte} (h : 8 ≤ content.length) (hc : (cipherPart content).length < 4) (ae : AE)
    (t : BitVec 15) (s : State) : decodeEnc ae t content s = (s.setNonce (nonceOf content)).raise .malformed :=
  (if_neg (not_lt.2 h)).trans (if_pos hc)

/-- The state in which the ciphertext is decrypted: the nonce is the packet's and `SIN` holds the ciphertext. -/
def withCiphertext (content : List Byte) (s : State) : State :=
  (s.setNonce (nonceOf content)).fillScratch .sin (cipherPart content)

theorem decodeEnc_of_tag {content : List Byte} (h : 8 ≤ content.length) (hc : 4 ≤ (cipherPart content).length) (ae : AE)
    (t : BitVec 15) (s : State) :
    decodeEnc ae t content s =
      decrypted t (ae.dec s.par.key (nonceOf content) (cipherPart content)) (withCiphertext content s) :=
  (if_neg (not_lt.2 h)).trans (if_neg (not_lt.2 hc))

theorem decodePlain_of_rejected {s : State} (h : s.par.acceptPlaintext = false) (t : BitVec 15) (content : List Byte) :
    decodePlain t content s = s.raise .plaintextRejected :=
  if_neg (by simp [h])

theorem decodePlain_of_accepted {s : State} (h : s.par.acceptPlaintext = true) (t : BitVec 15) (content : List Byte) :
    decodePlain t content s = interpret t content s :=
  if_pos h

theorem decodePayload_of_short {v : List Byte} (h : v.length < 2) (ae : AE) (s : State) :
    decodePayload ae v s = s.raise .malformed := by
  rw [decodePayload, decodePacket_of_short h]

theorem decodePayload_encTag (ae : AE) (ty : BitVec 15) (content : List Byte) (s : State) :
    decodePayload ae (leBytes 2 (encTag ty) ++ content) s = decodeEnc ae ty content s := by
  rw [decodePayload, decodePacket_encTag]

theorem decodePayload_plainTag (ae : AE) (ty : BitVec 15) (content : List Byte) (s : State) :
    decodePayload ae (leBytes 2 (plainTag ty) ++ content) s = decodePlain ty content s := by
  rw [decodePayload, decodePacket_plainTag]

/-- A payload of two bytes or more is of one of the two packet layouts (30_encoding.md R104). -/
theorem exists_layout {v : List Byte} (h : 2 ≤ v.length) :
    ∃ (ty : BitVec 15) (content : List Byte),
      v = leBytes 2 (encTag ty) ++ content ∨ v = leBytes 2 (plainTag ty) ++ content := by
  match v, h with
  | lo :: hi :: content, _ =>
    have htag : leNat [lo, hi] < 65536 := by simpa using leNat_lt [lo, hi]
    have hpair : leBytes 2 (leNat [lo, hi]) = [lo, hi] := leBytes_leNat rfl
    refine ⟨BitVec.ofNat 15 (leNat [lo, hi]), content, ?_⟩
    by_cases hplain : leNat [lo, hi] < 32768
    · right
      rw [plainTag, BitVec.toNat_ofNat, Nat.mod_eq_of_lt hplain, hpair]
      rfl
    · left
      rw [encTag_ofNat (not_lt.1 hplain) htag, hpair]
      rfl

/-! ### R284 and R285: what a decryption leaves in the scratch buffers -/

@[simp] theorem State.byteAt_raise (s : State) (e : Failure) (st : Store) (a : Nat) :
    (s.raise e).byteAt st a = s.byteAt st a :=
  s.byteAt_setResult (.err e) st a

/-- Interpreting a plaintext writes no store. -/
@[simp] theorem byteAt_interpret (t : BitVec 15) (p : List Byte) (s : State) (st : Store) (a : Nat) :
    (interpret t p s).byteAt st a = s.byteAt st a := by
  rw [interpret_eq, State.byteAt_setResult]

theorem byteAt_zeroSout (s : State) (st : Store) (a : Nat) :
    (zeroSout s).byteAt st a = if st = .sout ∧ a < 257 then 0x00#8 else s.byteAt st a := by
  rw [zeroSout, State.byteAt_memWrite, List.length_replicate, Nat.zero_add, Nat.sub_zero]
  simp only [Nat.zero_le, true_and]
  exact ite_congr rfl (fun h => List.getD_replicate _ h.2) fun _ => rfl

/-- `SIN` holds the ciphertext behind its header. -/
theorem byteAt_sin_withCiphertext (content : List Byte) (s : State) (a : Nat) :
    (withCiphertext content s).byteAt .sin a =
      (0x00#8 :: BitVec.ofNat 8 (cipherPart content).length :: 0x00#8 :: cipherPart content).getD a (s.byteAt .sin a) := by
  rw [withCiphertext, State.byteAt_fillScratch, if_pos rfl, State.byteAt_setNonce]

theorem byteAt_sout_withCiphertext (content : List Byte) (s : State) (a : Nat) :
    (withCiphertext content s).byteAt .sout a = s.byteAt .sout a := by
  rw [withCiphertext, State.byteAt_fillScratch, if_neg nofun, State.byteAt_setNonce]

/-- Whatever the decryption answers, it does not write `SIN`. -/
theorem byteAt_sin_decrypted (t : BitVec 15) (p : Option (List Byte)) (s : State) (a : Nat) :
    (decrypted t p s).byteAt .sin a = s.byteAt .sin a := by
  cases p with
  | none => exact (State.byteAt_raise _ _ _ _).trans (byteAt_zeroSout s .sin a)
  | some p => exact (byteAt_interpret t p _ _ _).trans (State.byteAt_fillScratch s .sout .sin p a)

/-- A rejected ciphertext leaves `SOUT` all zero; an accepted one leaves the plaintext behind its header. -/
theorem byteAt_sout_decrypted (t : BitVec 15) (p : Option (List Byte)) (s : State) (a : Nat) :
    (decrypted t p s).byteAt .sout a =
      match p with
      | none => if a < 257 then 0x00#8 else s.byteAt .sout a
      | some p => (0x00#8 :: BitVec.ofNat 8 p.length :: 0x00#8 :: p).getD a (s.byteAt .sout a) := by
  cases p with
  | none =>
    have hzero := byteAt_zeroSout s .sout a
    simp only [true_and] at hzero
    exact (State.byteAt_raise _ _ _ _).trans hzero
  | some p => exact (byteAt_interpret t p _ _ _).trans (State.byteAt_fillScratch s .sout .sout p a)

/-- The result of a decryption is the failure, or that of the record parsed from the plaintext. -/
theorem result_decrypted (t : BitVec 15) (p : Option (List Byte)) (s : State) :
    (decrypted t p s).host.result =
      match p with
      | none => .err .authFail
      | some p =>
        match parse s.par.typeTable t p with
        | none => .err .malformed
        | some r => .ok (.record r) := by
  cases p with
  | none => rfl
  | some p =>
    have hpar : (s.fillScratch .sout p).par = s.par := rfl
    rw [decrypted, interpret_eq, hpar]
    dsimp only
    cases parse s.par.typeTable t p <;> rfl

/-- A decryption writes `SOUT` and the result, and nothing else. -/
theorem decrypted_eq (t : BitVec 15) (p : Option (List Byte)) (s : State) :
    decrypted t p s =
      { s with
        sout := (decrypted t p s).sout, host := { s.host with result := (decrypted t p s).host.result } } := by
  cases p with
  | none =>
    rw [decrypted, zeroSout]
    generalize List.replicate 257 0x00#8 = zeros
    rfl
  | some p => rw [decrypted, interpret_eq]; rfl

/-- What a decode of a packet with a whole tag leaves: its nonce, `SIN` and `SOUT` as the decryption filled them, and the
result. -/
theorem decodeEnc_eq_of_tag {content : List Byte} (h : 8 ≤ content.length) (hc : 4 ≤ (cipherPart content).length) (ae : AE)
    (t : BitVec 15) (s : State) :
    decodeEnc ae t content s =
      { s with
        sin := (decodeEnc ae t content s).sin, sout := (decodeEnc ae t content s).sout, nonce := nonceOf content,
        host := { s.host with result := (decodeEnc ae t content s).host.result } } := by
  rw [decodeEnc_of_tag h hc, decrypted_eq]
  rfl

/-- Settles O54: the layouts by `decodePayload_of_short`, `decodePayload_encTag`, `decodePayload_plainTag` and
`exists_layout`; the encrypted branch by `decodeEnc_of_tag` and what a decryption leaves. -/
theorem decodeChecksInOrder : Obligations.DecodeChecksInOrder := by
  refine ⟨fun v V s hV => ?_, fun ty content c s hc => ?_, fun ty content s => ⟨fun h => ?_, fun h => ?_⟩⟩
  · have hbytes : payloadBytes s v = V := by
      rw [hV]
      cases v with
      | inline bytes => rfl
      | view => simp only [payloadBytes, viewBytes]; cases s.host.view <;> rfl
    have hexec : exec (.codecDecode v) s = .next (decodePayload Config.ae V s) := by rw [← hbytes]; rfl
    refine ⟨fun hshort => ?_, fun ty content hsplit => ⟨_, hexec, ?_⟩, fun ty content hsplit => ⟨_, hexec, ?_⟩,
      exists_layout⟩
    · rw [hexec, decodePayload_of_short hshort]
      rfl
    · rw [hsplit]
      exact congrArg Host.Outcome.next (decodePayload_encTag Config.ae ty content s).symm
    · rw [hsplit]
      exact congrArg Host.Outcome.next (decodePayload_plainTag Config.ae ty content s).symm
  · change c = cipherPart content at hc
    subst hc
    refine ⟨fun h => congrArg Host.Outcome.next (decodeEnc_of_short h Config.ae ty s),
      fun h hshort => congrArg Host.Outcome.next (decodeEnc_of_no_tag h hshort Config.ae ty s),
      fun h htag => ⟨_, rfl, (decodeEnc_eq_of_tag h htag Config.ae ty s).trans ?_, fun a => ?_, fun a => ?_⟩⟩
    · rw [decodeEnc_of_tag h htag, result_decrypted]
      rfl
    · rw [decodeEnc_of_tag h htag, byteAt_sin_decrypted, byteAt_sin_withCiphertext]
    · rw [decodeEnc_of_tag h htag, byteAt_sout_decrypted, byteAt_sout_withCiphertext]
      cases hdec : Config.ae.dec s.par.key (nonceOf content) (cipherPart content) with
      | none => rfl
      | some p =>
        have hclamp : (cipherPart content).length ≤ 254 := by rw [cipherPart_length]; omega
        have hp := Config.ae.dec_length _ _ _ _ hclamp hdec
        simp only [← hp, Nat.add_sub_cancel]
  · exact congrArg Host.Outcome.next (decodePlain_of_rejected h ty content)
  · refine congrArg Host.Outcome.next ((decodePlain_of_accepted h ty content).trans ?_)
    rw [interpret_eq]
    cases parse s.par.typeTable ty content <;> rfl

/-- Settles O56: a rejected ciphertext is `decrypted` of `none`. -/
theorem failedAuthenticationLeaksNothing : Obligations.FailedAuthenticationLeaksNothing := by
  refine ⟨fun ae ty content c s hc h htag hdec => ?_, fun ty content bytes s => ⟨rfl, rfl, rfl⟩⟩
  change c = cipherPart content at hc
  subst hc
  have hrejected := decodeEnc_of_tag h htag ae ty s
  rw [hdec] at hrejected
  refine ⟨_, decodePayload_encTag ae ty content s, rfl, (decodeEnc_eq_of_tag h htag ae ty s).trans ?_, fun a ha => ?_,
    fun a => ?_⟩
  · rw [hrejected, result_decrypted]
  · rw [hrejected, byteAt_sout_decrypted]
    exact if_pos ha
  · rw [hrejected, byteAt_sin_decrypted, byteAt_sin_withCiphertext]

/-! ### R291: decoding undoes encoding -/

/-- The record whose bytes were written is read back (45_codec.md R273). -/
theorem recordFrom_ser (r : Record) : recordFrom r.type (ser r) = r := by
  simp [recordFrom, ser, List.drop_append, drop_leBytes, ofNat_leNat_leBytes]

/-- A well-typed record's bytes parse back to it. -/
theorem parse_ser {tt : List (BitVec 15 × Nat)} {r : Record} (h : typeFields tt r.type = some r.fields.length) :
    parse tt r.type (ser r) = some r :=
  (parse_eq_some_iff tt r.type (ser r) r).2 ⟨_, h, ser_length r, (recordFrom_ser r).symm⟩

/-- The first 8 bytes of a packet's content are its nonce. -/
theorem nonceOf_append (n : Nonce) (c : List Byte) : nonceOf (n.toList ++ c) = n := by
  ext i hi
  simp [nonceOf, List.getElem?_append_left]

/-- The bytes behind the nonce are the ciphertext, if they fit its clamp. -/
theorem cipherPart_append {n : Nonce} {c : List Byte} (h : c.length ≤ 254) : cipherPart (n.toList ++ c) = c := by
  have hlen : n.toList.length = 8 := Vector.length_toList
  rw [cipherPart, List.drop_left' hlen, List.length_append, hlen, Nat.add_sub_cancel_left, min_eq_left h, List.take_length]

/-- The encrypted packet of a well-typed record decodes to the record and leaves its nonce. -/
theorem decodePayload_encrypted {ae : AE} {r : Record} {s : State}
    (ht : typeFields s.par.typeTable r.type = some r.fields.length) (hlen : (ser r).length ≤ 240) (n : Nonce) :
    (decodePayload ae (leBytes 2 (encTag r.type) ++ (n.toList ++ ae.enc s.par.key n (ser r))) s).host.result =
        .ok (.record r) ∧
      (decodePayload ae (leBytes 2 (encTag r.type) ++ (n.toList ++ ae.enc s.par.key n (ser r))) s).nonce = n := by
  have hc := ae.enc_length s.par.key n (ser r) (by omega)
  have hpart := cipherPart_append (n := n) (c := ae.enc s.par.key n (ser r)) (by omega)
  have hdecode := decodeEnc_of_tag (content := n.toList ++ ae.enc s.par.key n (ser r)) (by simp) (by rw [hpart]; omega)
    ae r.type s
  rw [hpart, nonceOf_append, ae.dec_enc _ _ _ (by omega)] at hdecode
  rw [decodePayload_encTag, hdecode]
  constructor
  · rw [result_decrypted]
    have hpar : (withCiphertext (n.toList ++ ae.enc s.par.key n (ser r)) s).par = s.par := rfl
    simp only [hpar, parse_ser ht]
  · rw [decrypted_eq]
    exact nonceOf_append n _

/-- The plaintext packet of a well-typed record decodes to the record, where plaintext is accepted. -/
theorem decodePayload_plaintext {ae : AE} {r : Record} {s : State}
    (ht : typeFields s.par.typeTable r.type = some r.fields.length) (haccept : s.par.acceptPlaintext = true) :
    (decodePayload ae (leBytes 2 (plainTag r.type) ++ ser r) s).host.result = .ok (.record r) := by
  rw [decodePayload_plainTag, decodePlain_of_accepted haccept, interpret_eq, parse_ser ht]
  rfl

/-- The bytes behind a written length byte are the payload. -/
theorem memRead_payload {s t : State} {total : Byte} {payload : List Byte}
    (h : ∀ a, t.byteAt .buf a = (total :: payload).getD a (s.byteAt .buf a)) :
    t.memRead .buf 1 payload.length = payload := by
  refine List.ext_getElem (State.memRead_length _ _ _ _) fun j _ hj => ?_
  simp only [State.memRead, List.getElem_map, List.getElem_range, h]
  rw [Nat.add_comm 1 j, List.getD_cons_succ, List.getD_eq_getElem _ _ hj]

/-- The view that `RADIO_PAYLOAD` gives of a `BUF` filled with a payload of 1 to 254 bytes is the payload (20_memory.md
R91). -/
theorem viewBytes_of_filled {s t u : State} {payload : List Byte} (hpos : 0 < payload.length)
    (hfits : payload.length ≤ 254)
    (h : ∀ a, t.byteAt .buf a = (lengthByte payload.length :: payload).getD a (s.byteAt .buf a))
    (hpayload : exec .radioPayload t = .next u) : viewBytes u = payload := by
  have hlow : (t.byteAt .buf 0).toNat = payload.length + 1 := by
    rw [h, List.getD_cons_zero, lengthByte, BitVec.toNat_ofNat]
    omega
  have hne : t.byteAt .buf 0 ≠ 0x00#8 := fun hz => by rw [hz] at hlow; cases hlow
  cases (exec_radioPayload t).symm.trans hpayload
  rw [if_neg hne, hlow, Nat.add_sub_cancel]
  exact memRead_payload h

/-- An accepted `RADIO_START_TX` fills `BUF` with the strings behind their length byte and leaves the parameters. -/
theorem exists_radioStartTx {s : State} {strings : List (List Byte)} (hcfg : s.radio.cfg = .txCfg)
    (hdis : s.radio.state = .disabled) (hfits : strings.flatten.length ≤ 257) :
    ∃ t, exec (.radioStartTx strings) s = .next t ∧ t.par = s.par ∧
      ∀ a, t.byteAt .buf a = (lengthByte strings.flatten.length :: strings.flatten).getD a (s.byteAt .buf a) := by
  obtain ⟨haccepted, -⟩ := settle_of_ok_iff (s := s) (radioStartTx_ok_iff_memWrite strings s)
  refine ⟨_, (exec_radioStartTx strings s).trans (congrArg Host.Outcome.next (haccepted ⟨hcfg, hdis, hfits⟩)), rfl,
    fun a => ?_⟩
  rw [State.byteAt_ok, State.byteAt_armRadio, State.byteAt_memWrite_zero]

/-- Settles O55: inline, by `decodePayload_encrypted` and `decodePayload_plaintext`; through the view, whose bytes are the
same strings by `viewBytes_of_filled`. -/
theorem decodeUndoesEncode : Obligations.DecodeUndoesEncode := by
  intro r n s ht hlen
  refine ⟨⟨_, rfl, ?_⟩, fun hcfg hdis => ?_, fun haccept => ⟨_, rfl, decodePayload_plaintext ht haccept⟩⟩
  · rw [List.append_assoc]
    exact decodePayload_encrypted ht hlen n
  · have hc := Config.ae.enc_length s.par.key n (ser r) (by omega)
    generalize hstrings : [leBytes 2 (r.type.toNat ||| 0x8000), n.toList, Config.ae.enc s.par.key n (ser r)] = strings
    have hflat : strings.flatten = leBytes 2 (encTag r.type) ++ (n.toList ++ Config.ae.enc s.par.key n (ser r)) := by
      rw [← hstrings]
      simp [encTag]
    have htotal : strings.flatten.length = 10 + ((ser r).length + 4) := by
      rw [hflat, List.length_append, List.length_append, hc, leBytes_length, Vector.length_toList]
      omega
    obtain ⟨t, hstart, hpar, hfill⟩ := exists_radioStartTx hcfg hdis (strings := strings) (by omega)
    obtain ⟨t', hpayload, hpar'⟩ : ∃ t', exec .radioPayload t = .next t' ∧ t'.par = s.par := ⟨_, rfl, hpar⟩
    have hview := viewBytes_of_filled (by omega) (by omega) hfill hpayload
    rw [hflat, ← hpar'] at hview
    rw [← hpar'] at ht
    refine ⟨t, t', _, hstart, hpayload, rfl, ?_⟩
    rw [payloadBytes, hview]
    exact (decodePayload_encrypted ht hlen n).1

end Sys2Proof.Machine
end

section
/-! ## Proofs: a nonce and an encrypted encode as a whole (43_rng.md R207, 45_codec.md R276)

A draw is three turns: the host starts the generator, the generator produces a byte, the host takes it. `State.drew` is
the state after one draw, and the eight draws of `DRAW_NONCE` are eight of them; `CODEC_ENCODE_ENC` is these with a host
step before and one behind. -/

namespace Sys2Proof.Machine

/-- The state after a draw: the byte is in the nonce and in the generator, which is Idle again (43_rng.md R202). -/
def State.drew (s : State) (i : Fin 8) (b : Byte) : State :=
  { s with
    nonce := s.nonce.set i b, mode := .running,
    rng := { hd := { phase := .idle, done := false, inten := false }, value := b },
    host := { s.host with result := .ok (.byte b) } }

/-- A generator that is started and not done answers, and the host takes its byte. -/
theorem run_nonceTake {s : State} {i : Fin 8} {b : Byte} {ts : List Turn} {rest : List Task} (hm : s.mode ≠ .halted)
    (ha : s.rng.hd.phase = .active) (hd : s.rng.hd.done = false) (ht : s.turns = .agent (.rngProduce b) :: .host :: ts)
    (htodo : s.host.todo = .nonceTake i :: rest) :
    Host.Core.run Sys2Proof.core 2 s = .next (((s.drew i b).setTurns ts).setTasks rest) := by
  have hproduce : step s =
      .next
        { s with
          turns := .host :: ts, rng := { hd := { s.rng.hd with done := true }, value := b } } :=
    (step_eq_exec ht rfl nofun).trans
      ((rngProduceWritesAnyDraw b (s.setTurns (.host :: ts))).1 ha hd)
  have htake := step_eq_runTask
    (s := { s with turns := .host :: ts, rng := { hd := { s.rng.hd with done := true }, value := b } }) rfl hm htodo
  rw [runTask, waitOn_of_done (p := .rng) (by exact ha) rfl] at htake
  exact (run_succ_of_step hproduce 1).trans (run_succ_of_step htake 0)

/-- The turns of the draws at these places of the nonce, each begun by a host step. -/
def drawTurns (v : Nonce) (is : List (Fin 8)) : List Turn :=
  is.flatMap fun i => [.host, .agent (.rngProduce v[i]), .host]

/-- The host's tasks for the draws at these places. -/
def drawTasks (is : List (Fin 8)) : List Task := is.flatMap fun i => [.nonceStart, .nonceTake i]

/-- One whole draw from an Idle generator. -/
theorem run_draw {s : State} {i : Fin 8} {b : Byte} {ts : List Turn} {rest : List Task} (hm : s.mode ≠ .halted)
    (hi : s.rng.hd.phase = .idle) (hd : s.rng.hd.done = false)
    (ht : s.turns = .host :: .agent (.rngProduce b) :: .host :: ts)
    (htodo : s.host.todo = .nonceStart :: .nonceTake i :: rest) :
    Host.Core.run Sys2Proof.core 3 s = .next (((s.drew i b).setTurns ts).setTasks rest) := by
  have hstart : step s =
      .next
        { s with
          turns := .agent (.rngProduce b) :: .host :: ts,
          rng := { s.rng with hd := { s.rng.hd with inten := true, phase := .active } },
          host := { s.host with todo := .nonceTake i :: rest, result := .ok .unit } } :=
    (step_eq_runTask ht hm htodo).trans (congrArg Host.Outcome.next ((settle_of_ok_iff (rngStart_ok_iff _)).1 hi))
  exact (run_succ_of_step hstart 2).trans (run_nonceTake hm rfl hd rfl rfl)

/-- A draw goes by neither the turns nor the tasks that are left. -/
theorem drew_setTurns_setTasks (s : State) (i : Fin 8) (b : Byte) (us ts : List Turn) (xs ys : List Task) :
    ((((s.setTurns us).setTasks xs).drew i b).setTurns ts).setTasks ys = ((s.drew i b).setTurns ts).setTasks ys := rfl

/-- Draws one after the other. -/
theorem run_draws {s : State} {is : List (Fin 8)} {v : Nonce} {ts : List Turn} {rest : List Task}
    (hm : s.mode ≠ .halted) (hi : s.rng.hd.phase = .idle) (hd : s.rng.hd.done = false) :
    Host.Core.run Sys2Proof.core (3 * is.length)
        ((s.setTurns (drawTurns v is ++ ts)).setTasks (drawTasks is ++ rest)) =
      .next (((is.foldl (fun t i => t.drew i v[i]) s).setTurns ts).setTasks rest) := by
  induction is generalizing s with
  | nil => rfl
  | cons i is ih =>
    have hfirst := run_draw
      (s := (s.setTurns (drawTurns v (i :: is) ++ ts)).setTasks (drawTasks (i :: is) ++ rest)) (b := v[i])
      (ts := drawTurns v is ++ ts) (rest := drawTasks is ++ rest) hm hi hd rfl rfl
    rw [drew_setTurns_setTasks] at hfirst
    rw [List.length_cons, Nat.mul_succ, Nat.add_comm, run_add hfirst, ih (nofun : CpuMode.running ≠ .halted) rfl rfl]
    rfl

/-- The bytes that were set are those of `v`, and the others are as before. -/
theorem getElem_foldl_set (v : Nonce) (is : List (Fin 8)) (n : Nonce) (j : Fin 8) :
    (is.foldl (fun m i => m.set i v[i]) n)[j] = if j ∈ is then v[j] else n[j] := by
  induction is generalizing n with
  | nil => rfl
  | cons i is ih =>
    rw [List.foldl_cons, ih]
    by_cases hj : j ∈ is
    · rw [if_pos hj, if_pos (List.mem_cons_of_mem i hj)]
    · rw [if_neg hj, Fin.getElem_fin, Vector.getElem_set]
      simp only [List.mem_cons, hj, or_false, Fin.ext_iff, eq_comm]
      split <;> simp_all

/-- The eight places of a nonce, in the order they are drawn. -/
def nonceIndices : List (Fin 8) := [0, 1, 2, 3, 4, 5, 6, 7]

/-- A nonce whose eight bytes are set is the nonce of these bytes. -/
theorem foldl_set_nonceIndices (n v : Nonce) : nonceIndices.foldl (fun m i => m.set i v[i]) n = v := by
  refine Vector.ext fun j hj => ?_
  have hmem : (⟨j, hj⟩ : Fin 8) ∈ nonceIndices := by
    generalize (⟨j, hj⟩ : Fin 8) = i
    revert i
    decide
  exact (getElem_foldl_set v nonceIndices n ⟨j, hj⟩).trans (if_pos hmem)

/-- Eight draws leave the drawn nonce and an Idle generator with its last byte. -/
theorem foldl_drew (s : State) (v : Nonce) :
    nonceIndices.foldl (fun t i => t.drew i v[i]) s =
      { s with
        nonce := v, mode := .running,
        rng := { hd := { phase := .idle, done := false, inten := false }, value := v[7] },
        host := { s.host with result := .ok (.byte v[7]) } } :=
  congrArg
    (fun n =>
      { s with
        nonce := n, mode := .running,
        rng := { hd := { phase := .idle, done := false, inten := false }, value := v[7] },
        host := { s.host with result := .ok (.byte v[7]) } })
    (foldl_set_nonceIndices s.nonce v)

/-- From the first start on, the 23 turns of eight draws leave the drawn nonce and an Idle generator. -/
theorem run_nonceTasks {s : State} {v : Nonce} {ts : List Turn} {rest : List Task} (hm : s.mode ≠ .halted)
    (ha : s.rng.hd.phase = .active) (hd : s.rng.hd.done = false)
    (ht : s.turns = .agent (.rngProduce v[0]) :: .host :: (drawTurns v nonceIndices.tail ++ ts))
    (htodo : s.host.todo = nonceTasks ++ rest) :
    Host.Core.run Sys2Proof.core 23 s =
      .next
        { s with
          nonce := v, mode := .running, turns := ts,
          rng := { hd := { phase := .idle, done := false, inten := false }, value := v[7] },
          host := { s.host with todo := rest, result := .ok (.byte v[7]) } } := by
  have hfirst := run_nonceTake (i := 0) (rest := drawTasks nonceIndices.tail ++ rest) hm ha hd ht htodo
  have hrest := run_draws (s := s.drew 0 v[0]) (is := nonceIndices.tail) (v := v) (ts := ts) (rest := rest)
    (nofun : CpuMode.running ≠ .halted) rfl rfl
  refine (run_add (k := 21) hfirst).trans (hrest.trans ?_)
  have hall : nonceIndices.tail.foldl (fun t i => t.drew i v[i]) (s.drew 0 v[0]) =
      nonceIndices.foldl (fun t i => t.drew i v[i]) s := rfl
  rw [hall, foldl_drew]
  rfl

/-- Settles O30: the first host step starts the generator, and the other 23 turns are `run_nonceTasks`. -/
theorem drawNonceStoresTheDrawsInOrder : Obligations.DrawNonceStoresTheDrawsInOrder := by
  intro s v rest ts hm htodo hi hd ht
  have hstart := (step_eq_runTask ht hm htodo).trans
    (congrArg Host.Outcome.next ((settle_of_ok_iff (drawNonce_ok_iff [] _)).1 hi))
  exact (run_succ_of_step hstart 23).trans (run_nonceTasks hm rfl hd rfl rfl)

/-- A filled `SOUT` is some memory with the header and the content in front. -/
theorem exists_fillScratch_sout (s : State) (content : List Byte) :
    ∃ m, s.fillScratch .sout content = s.setSout m ∧
      ∀ a, (s.setSout m).byteAt .sout a =
        (0x00#8 :: BitVec.ofNat 8 content.length :: 0x00#8 :: content).getD a (s.byteAt .sout a) :=
  ⟨_, rfl, fun a => (State.byteAt_fillScratch s .sout .sout content a).trans (if_pos rfl)⟩

/-- The last host step of an encrypted encode: the packet of the record under the drawn nonce, with the ciphertext in
`SOUT`. -/
theorem run_encodeFinish {s : State} {r : Record} {c : List Byte} {ts : List Turn} {rest : List Task}
    (ht : s.turns = .host :: ts) (hm : s.mode ≠ .halted) (htodo : s.host.todo = .encodeFinish r :: rest)
    (hc : Config.ae.enc s.par.key s.nonce (ser r) = c) :
    ∃ m, Host.Core.run Sys2Proof.core 1 s =
        .next
          { s with
            sout := m, turns := ts,
            host :=
              { s.host with
                todo := rest, pkt := encStrings r s.nonce c, result := .ok (.strings (encStrings r s.nonce c)) } } ∧
      ∀ a, (s.setSout m).byteAt .sout a =
        (0x00#8 :: BitVec.ofNat 8 c.length :: 0x00#8 :: c).getD a (s.byteAt .sout a) := by
  obtain ⟨m, hfill, hbytes⟩ := exists_fillScratch_sout ((s.setTurns ts).setTasks rest) c
  subst hc
  have hstep := (step_eq_runTask ht hm htodo).trans
    (congrArg Host.Outcome.next (congrArg (State.okStrings · (encStrings r s.nonce _)) hfill))
  exact ⟨m, run_succ_of_step hstep 0, hbytes⟩

/-- Settles O52: the first host step fills `SIN` and starts the generator, the next 23 turns are `run_nonceTasks`, and the
last host step encrypts under the drawn nonce. -/
theorem encryptedEncodeProducesThePacket : Obligations.EncryptedEncodeProducesThePacket := by
  intro s r v c rest ts hm htodo hi hd hty hlen hc ht
  have hclen : c.length = (ser r).length + 4 := by
    rw [hc]
    exact Config.ae.enc_length _ _ _ (by rw [ser_length]; omega)
  have hbegin := step_eq_runTask ht hm htodo
  generalize hs₁ : (s.setTurns _).setTasks rest = s₁ at hbegin
  obtain ⟨sin, hsin, hsinBytes⟩ := exists_fillScratch_sin s₁ (ser r)
  have hstart := hbegin.trans (congrArg Host.Outcome.next
    ((settle_of_ok_iff (encodeBegin_ok_iff_eq hsin [.encodeFinish r])).1 (by subst hs₁; exact ⟨hty, hlen, hi⟩)))
  subst hs₁
  have hdraws := run_nonceTasks (v := v) (ts := .host :: ts) (rest := .encodeFinish r :: rest)
    (s := { s with
      turns := .agent (.rngProduce v[0]) :: .host :: (drawTurns v nonceIndices.tail ++ .host :: ts), sin := sin,
      rng := { s.rng with hd := { s.rng.hd with inten := true, phase := .active } },
      host := { s.host with todo := nonceTasks ++ .encodeFinish r :: rest, result := .ok .unit } })
    hm rfl hd rfl rfl
  generalize hs₂ : State.mk _ _ _ _ _ _ _ _ v _ _ _ _ _ _ _ _ = s₂ at hdraws
  obtain ⟨sout, hfinish, hsoutBytes⟩ := run_encodeFinish (s := s₂) (r := r) (c := c) (ts := ts) (rest := rest)
    (by rw [← hs₂]) (by rw [← hs₂]; nofun) (by rw [← hs₂]) (by rw [← hs₂]; exact hc.symm)
  subst hs₂
  refine ⟨_, (run_succ_of_step hstart 24).trans ((run_add (k := 1) hdraws).trans hfinish), hclen, rfl, hsinBytes, ?_⟩
  rw [← hclen]
  exact hsoutBytes

end Sys2Proof.Machine
end
